-- ==== Sys2Proof/Word.lean ====
section
/-! DEFINITION. The words of the block: bytes, pin levels, and the fixed group of four like things (one per channel). -/

namespace Sys2Proof

/-- `u8` of spec/00_scope.md section 6: every comparison on it is unsigned. -/
abbrev Byte := BitVec 8

/-- A pin level (R29): written 0 and 1 in traces. -/
inductive Level where
  | low
  | high
deriving DecidableEq, Repr

/-- A pin id: a small integer with no stated upper bound (R43). -/
abbrev Pin := Nat

/-- A channel index, `0..3` (R10: `NCH = 4`). -/
abbrev ChIdx := Fin 4

/-- One thing for each of the four channels (R6, R10). -/
structure Quad (α : Type) where
  c0 : α
  c1 : α
  c2 : α
  c3 : α
deriving DecidableEq, Repr

/-- The entry of channel `i`. -/
def Quad.get {α : Type} (q : Quad α) (i : ChIdx) : α :=
  match i with
  | 0 => q.c0
  | 1 => q.c1
  | 2 => q.c2
  | 3 => q.c3

/-- `q` with the entry of channel `i` replaced. -/
def Quad.set {α : Type} (q : Quad α) (i : ChIdx) (a : α) : Quad α :=
  match i with
  | 0 => { q with c0 := a }
  | 1 => { q with c1 := a }
  | 2 => { q with c2 := a }
  | 3 => { q with c3 := a }

/-- `f` applied to the entry of channel `i`. -/
def Quad.modify {α : Type} (q : Quad α) (i : ChIdx) (f : α → α) : Quad α :=
  q.set i (f (q.get i))

/-- `f` applied to every entry. -/
def Quad.map {α β : Type} (f : α → β) (q : Quad α) : Quad β :=
  { c0 := f q.c0, c1 := f q.c1, c2 := f q.c2, c3 := f q.c3 }

/-- The four values of `f`. -/
def Quad.ofFn {α : Type} (f : ChIdx → α) : Quad α :=
  { c0 := f 0, c1 := f 1, c2 := f 2, c3 := f 3 }

/-- The entries in ascending channel order. -/
def Quad.toList {α : Type} (q : Quad α) : List α :=
  [q.c0, q.c1, q.c2, q.c3]

end Sys2Proof
end

