-- ==== Sys2Proof/Config.lean ====
section
/-! DEFINITION. The configuration record `cfg` of spec/00_scope.md section 5 (R6), its default, and the free values. -/

namespace Sys2Proof

/-- Output-timing policy of a channel (R17). -/
inductive MotorType where
  | dc
  | servo
deriving DecidableEq, Repr

/-- The two readings of the growth distance of the Exponential profile (R137, D22). -/
inductive ExpGrowDist where
  | toTarget
  | fromFloor
deriving DecidableEq, Repr

/-- The named parameters of R6. What the source fixes (four channels, 256 counts, `SERVO_DIV`, the buckets, the
DIRECTION bits) is not here. -/
structure Config where
  leftIdx : ChIdx
  rightIdx : ChIdx
  codeSpeed : Byte
  codeLeft : Byte
  codeRight : Byte
  codeSettings : Byte
  codeDirection : Byte
  codeEnable : Byte
  codePause : Byte
  codeAccel : Byte
  codeAccelRate : Byte
  codeMinimumDuty : Byte
  globalMask : Byte
  leftMask : Byte
  rightMask : Byte
  enableMask : Byte
  accelTypeMask : Byte
  accelInstant : Byte
  accelLinear : Byte
  accelExponential : Byte
  pinDuty : Quad Pin
  pinFwd : Quad Pin
  pinRev : Quad Pin
  motorType : Quad MotorType
  expGrowDist : ExpGrowDist
  resetGlobalEnable : Bool
  resetEnabled : Quad Bool
  resetPaused : Quad Bool
  resetAccelType : Byte
  resetAccelRate : Byte
  resetMinimumDuty : Byte
  /-- `RESET_TARGET[i]`: used only for the channels that are neither left nor right (R34). -/
  resetTarget : Quad Byte
  /-- `RESET_TARGET_DIRECTION[i]`: used only for the channels that are neither left nor right (R34). -/
  resetTargetDirection : Quad Bool
deriving DecidableEq, Repr

/-- The defaults of the parameter table of R6. UNVERIFIED: the spec's own choices, log 1. -/
def Config.default : Config where
  leftIdx := 0
  rightIdx := 1
  codeSpeed := 0x10
  codeLeft := 0x11
  codeRight := 0x12
  codeSettings := 0x13
  codeDirection := 0x14
  codeEnable := 0x15
  codePause := 0x16
  codeAccel := 0x17
  codeAccelRate := 0x18
  codeMinimumDuty := 0x19
  globalMask := 0x01
  leftMask := 0x02
  rightMask := 0x04
  enableMask := 0x01
  accelTypeMask := 0x02
  accelInstant := 0
  accelLinear := 1
  accelExponential := 2
  pinDuty := ⟨0, 3, 6, 9⟩
  pinFwd := ⟨1, 4, 7, 10⟩
  pinRev := ⟨2, 5, 8, 11⟩
  motorType := ⟨.dc, .dc, .dc, .dc⟩
  expGrowDist := .toTarget
  resetGlobalEnable := false
  resetEnabled := ⟨false, false, false, false⟩
  resetPaused := ⟨false, false, false, false⟩
  resetAccelType := 0
  resetAccelRate := 0
  resetMinimumDuty := 0
  resetTarget := ⟨0, 0, 0, 0⟩
  resetTargetDirection := ⟨false, false, false, false⟩

/-- The free value of the block: an unspecified byte, "any value, possibly different at each read" (R101, R83, U3).
Nothing constrains it. The n-th byte a run draws is `Config.freeByte n` (log 5). -/
opaque Config.freeByte : Nat → Byte

end Sys2Proof
end

