-- ==== Sys2Proof/Machine/Flags.lean ====
section
/-! DEFINITION. The one-bit flags a command computes from its value byte, with their polarity (R60, R61), and the
comparisons that select an action (R107, R112). -/

namespace Sys2Proof.Machine

/-- True polarity, `nz(v & m)`: SETTINGS' enable bit, PAUSE's global bit (R89, R92). -/
def flagTrue (v m : Byte) : Bool := (v &&& m) != 0

/-- Inverted polarity, `(v & m) == 0`: ENABLE's three bits, PAUSE's left and right bits (R91, R92). -/
def flagInverted (v m : Byte) : Bool := (v &&& m) == 0

/-- The comparator's output: `cnt < duty`, unsigned (R107). -/
def comparatorOn (cnt duty : Byte) : Bool := cnt < duty

/-- The divider has reached its threshold: `accelStepCount >= accelRate` (R112). -/
def dividerReached (count rate : Byte) : Bool := rate ≤ count

end Sys2Proof.Machine
end

