-- ==== Sys2Proof/Syntax.lean ====
section
/-! DEFINITION. The operations of spec/opcode_table.json, and the four wire formats they arrive in (spec/30_encoding.md). -/

namespace Sys2Proof

/-- One constructor per row of spec/opcode_table.json, in the table's order. -/
inductive Instr where
  /-- `CMD SPEED, v` (R87) -/
  | speed (v : Byte)
  /-- `CMD LEFT, v` (R88) -/
  | left (v : Byte)
  /-- `CMD RIGHT, v` (R96) -/
  | right (v : Byte)
  /-- `CMD SETTINGS, v` (R89) -/
  | settings (v : Byte)
  /-- `CMD DIRECTION, v` (R90) -/
  | direction (v : Byte)
  /-- `CMD ENABLE, v` (R91) -/
  | enable (v : Byte)
  /-- `CMD PAUSE, v` (R92) -/
  | pause (v : Byte)
  /-- `CMD ACCEL, v` (R93) -/
  | accel (v : Byte)
  /-- `CMD ACCEL_RATE, v` (R94) -/
  | accelRate (v : Byte)
  /-- `CMD MINIMUM_DUTY, v` (R95) -/
  | minimumDuty (v : Byte)
  /-- `READ LEFT` (R98); `w` is the read/write bit of the opening byte, never inspected (R57) -/
  | readLeft (w : Bool)
  /-- `READ RIGHT` (R98) -/
  | readRight (w : Bool)
  /-- `READ SETTINGS` (R99) -/
  | readSettings (w : Bool)
  /-- `READ SPEED` (R100) -/
  | readSpeed (w : Bool)
  /-- `TICK cnt` (R105) -/
  | tick (cnt : Byte)
  /-- `BUSEVENT o a w rx` (R70) -/
  | busevent (o a w : Bool) (rx : Byte)
deriving DecidableEq, Repr

/-- What arrives, in one of the four formats of R55. Which format it is in is not encoded in the bits: a write
transaction, a read transaction, a tick and a bus event are different events. -/
inductive Wire where
  /-- format `CV` (R56): code byte in bits 15:8, value byte in bits 7:0 -/
  | cv (bits : BitVec 16)
  /-- format `RD` (R57): selection in bits 7:1, read/write bit in bit 0 -/
  | rd (bits : BitVec 8)
  /-- format `TK` (R58): the counter value -/
  | tk (bits : BitVec 8)
  /-- format `BE` (R59): `o a w rrrrrrrr` -/
  | be (bits : BitVec 11)
deriving DecidableEq, Repr

end Sys2Proof
end

