-- ==== Sys2Proof/WellFormed.lean ====
section
/-! DEFINITION. Well-formed configurations (R7). Every operand value of every operation is legal (R58, R64), so the
operations themselves need no check: their operands have the widths of their fields. -/

namespace Sys2Proof

/-- The ten command codes, in the table's order. -/
def Config.codes (c : Config) : List Byte :=
  [c.codeSpeed, c.codeLeft, c.codeRight, c.codeSettings, c.codeDirection, c.codeEnable, c.codePause, c.codeAccel,
    c.codeAccelRate, c.codeMinimumDuty]

/-- The four codes that are read selections too (R42). -/
def Config.readableCodes (c : Config) : List Byte :=
  [c.codeSpeed, c.codeLeft, c.codeRight, c.codeSettings]

/-- The twelve pin ids: duty pins, forward pins, reverse pins. -/
def Config.allPins (c : Config) : List Pin :=
  c.pinDuty.toList ++ c.pinFwd.toList ++ c.pinRev.toList

/-- No command code is 0 (R7, R62). -/
def Config.codesNonzero (c : Config) : Bool := c.codes.all (· != 0)

/-- The command codes are pairwise distinct (R7). -/
def Config.codesDistinct (c : Config) : Bool := decide c.codes.Nodup

/-- The readable codes fit in the seven bits of a selection (R7, R42). -/
def Config.readableFit (c : Config) : Bool := c.readableCodes.all (· ≤ 0x7F)

/-- No mask is 0 (R6). -/
def Config.masksNonzero (c : Config) : Bool :=
  [c.globalMask, c.leftMask, c.rightMask, c.enableMask, c.accelTypeMask].all (· != 0)

/-- The two SETTINGS masks share no bit (R7). -/
def Config.settingsMasksDisjoint (c : Config) : Bool := (c.enableMask &&& c.accelTypeMask) == 0

/-- The three profile codes are pairwise distinct (R7). -/
def Config.profilesDistinct (c : Config) : Bool :=
  decide [c.accelInstant, c.accelLinear, c.accelExponential].Nodup

/-- The twelve pin ids are pairwise distinct (R7, U5). -/
def Config.pinsDistinct (c : Config) : Bool := decide c.allPins.Nodup

/-- Left and right are two channels (R7). -/
def Config.idxDistinct (c : Config) : Bool := c.leftIdx != c.rightIdx

/-- A configuration that R7 does not exclude. -/
def Config.wf (c : Config) : Bool :=
  c.codesNonzero && c.codesDistinct && c.readableFit && c.masksNonzero && c.settingsMasksDisjoint &&
    c.profilesDistinct && c.pinsDistinct && c.idxDistinct

end Sys2Proof
end

