-- ==== Sys2Proof/Decode.lean ====
section
/-! DEFINITION. The decoder (total, rejecting by name), the encoder, and the words as spec/opcode_table.json numbers
them. Encodings: spec/30_encoding.md R56 to R59, R68. -/

namespace Sys2Proof

/-- What a wire word that is no row of the code map is. None of these is an error to the block: the step gives each
the effect the spec describes (log 13). -/
inductive DecodeError where
  /-- a non-zero code byte that is none of the ten codes (R63, R97) -/
  | unknownCommand (code v : Byte)
  /-- code byte 0: no command at all, the pair `[0][v]` (R62) -/
  | commandZero (v : Byte)
  /-- a selection that is none of the four readable codes (R101) -/
  | unknownSelection (sel : Byte)
deriving DecidableEq, Repr

/-- `sel = b >> 1` (R57). -/
def selectionOf (b : Byte) : Byte := b >>> 1

/-- The code byte of a `CV` word (R56). -/
def cvCode (bits : BitVec 16) : Byte := bits.extractLsb' 8 8

/-- The value byte of a `CV` word (R56). -/
def cvValue (bits : BitVec 16) : Byte := bits.extractLsb' 0 8

/-- A write transaction: the code is compared with the ten codes (R68, R85). -/
def decodeCV (cfg : Config) (code v : Byte) : Except DecodeError Instr :=
  if code = 0 then .error (.commandZero v)
  else if code = cfg.codeSpeed then .ok (.speed v)
  else if code = cfg.codeLeft then .ok (.left v)
  else if code = cfg.codeRight then .ok (.right v)
  else if code = cfg.codeSettings then .ok (.settings v)
  else if code = cfg.codeDirection then .ok (.direction v)
  else if code = cfg.codeEnable then .ok (.enable v)
  else if code = cfg.codePause then .ok (.pause v)
  else if code = cfg.codeAccel then .ok (.accel v)
  else if code = cfg.codeAccelRate then .ok (.accelRate v)
  else if code = cfg.codeMinimumDuty then .ok (.minimumDuty v)
  else .error (.unknownCommand code v)

/-- The opening byte of a read transaction: the selection is compared with the four readable codes (R57, R68). -/
def decodeRD (cfg : Config) (b : Byte) : Except DecodeError Instr :=
  let sel := selectionOf b
  let w := b.getLsbD 0
  if sel = cfg.codeLeft then .ok (.readLeft w)
  else if sel = cfg.codeRight then .ok (.readRight w)
  else if sel = cfg.codeSettings then .ok (.readSettings w)
  else if sel = cfg.codeSpeed then .ok (.readSpeed w)
  else .error (.unknownSelection sel)

/-- A bus event: three flags and the received byte (R59). -/
def decodeBE (bits : BitVec 11) : Instr :=
  .busevent (bits.getLsbD 10) (bits.getLsbD 9) (bits.getLsbD 8) (bits.extractLsb' 0 8)

/-- The operation a wire word stands for under `cfg`. -/
def decode (cfg : Config) (w : Wire) : Except DecodeError Instr :=
  match w with
  | .cv bits => decodeCV cfg (cvCode bits) (cvValue bits)
  | .rd bits => decodeRD cfg bits
  | .tk bits => .ok (.tick bits)
  | .be bits => .ok (decodeBE bits)

/-- A `CV` word (R56). -/
def cvWord (code v : Byte) : Wire := .cv (code ++ v)

/-- An `RD` byte: the selection in bits 7:1, the read/write bit in bit 0 (R57). -/
def rdByte (sel : Byte) (w : Bool) : Byte := sel.extractLsb' 0 7 ++ BitVec.ofBool w

/-- A `BE` word: `o a w rrrrrrrr` (R59). -/
def beWord (o a w : Bool) (rx : Byte) : BitVec 11 :=
  BitVec.ofBool o ++ BitVec.ofBool a ++ BitVec.ofBool w ++ rx

/-- The wire word of an operation under `cfg` (R68). -/
def encode (cfg : Config) (i : Instr) : Wire :=
  match i with
  | .speed v => cvWord cfg.codeSpeed v
  | .left v => cvWord cfg.codeLeft v
  | .right v => cvWord cfg.codeRight v
  | .settings v => cvWord cfg.codeSettings v
  | .direction v => cvWord cfg.codeDirection v
  | .enable v => cvWord cfg.codeEnable v
  | .pause v => cvWord cfg.codePause v
  | .accel v => cvWord cfg.codeAccel v
  | .accelRate v => cvWord cfg.codeAccelRate v
  | .minimumDuty v => cvWord cfg.codeMinimumDuty v
  | .readLeft w => .rd (rdByte cfg.codeLeft w)
  | .readRight w => .rd (rdByte cfg.codeRight w)
  | .readSettings w => .rd (rdByte cfg.codeSettings w)
  | .readSpeed w => .rd (rdByte cfg.codeSpeed w)
  | .tick cnt => .tk cnt
  | .busevent o a w rx => .be (beWord o a w rx)

/-- The bits of a wire word as one number, as spec/opcode_table.json numbers them. -/
def tableWord (w : Wire) : Nat :=
  match w with
  | .cv bits => bits.toNat
  | .rd bits => bits.toNat
  | .tk bits => bits.toNat
  | .be bits => bits.toNat

/-- The wire word that `w`, the bits of a row of the table in `nbits` bits, stands for. The bits do not say their
format. DESIGN CHOICE (log 15): eight bits that match one of the four `RD` rows are a read, any other eight bits a
tick; sixteen bits below 2048 (no command code of the table) are the eleven bits of a bus event, others a write. -/
def wireOfTableWord (nbits w : Nat) : Option Wire :=
  if w ≥ 2 ^ nbits then none
  else if nbits = 8 then
    match decodeRD Config.default (BitVec.ofNat 8 w) with
    | .ok _ => some (.rd (BitVec.ofNat 8 w))
    | .error _ => some (.tk (BitVec.ofNat 8 w))
  else if nbits = 11 then some (.be (BitVec.ofNat 11 w))
  else if nbits = 16 then
    if w < 2048 then some (.be (BitVec.ofNat 11 w)) else some (.cv (BitVec.ofNat 16 w))
  else none

/-- The operation the decoder reads from a word of the table, under the default `cfg`, whose codes the table uses. -/
def decodeTableWord (nbits w : Nat) : Option Instr :=
  match wireOfTableWord nbits w with
  | some x => (decode Config.default x).toOption
  | none => none

end Sys2Proof
end

