-- ==== Sys2Proof/Machine/Operands.lean ====
section
/-! DEFINITION. The operand forms: the value byte of a command as the spec cuts it (R60, R61), and the byte that opens
a read (R57). A duty, a profile code, a rate and a floor are the value byte whole. -/

namespace Sys2Proof.Machine

/-- `v[i]` (R8: bit 0 is the least significant). -/
def bitOf (v : Byte) (i : Nat) : Bool := v.getLsbD i

/-- The left bit of DIRECTION: "bit 1 of `v`" (R61, R90). -/
def directionLeftBit (v : Byte) : Bool := bitOf v 1

/-- The right bit of DIRECTION: "bit 2 of `v`" (R61, R90). -/
def directionRightBit (v : Byte) : Bool := bitOf v 2

/-- `v & ACCEL_TYPE_MASK`, stored unshifted (R60, R89). -/
def accelTypeField (cfg : Config) (v : Byte) : Byte := v &&& cfg.accelTypeMask

/-- `v & (ENABLE_MASK | ACCEL_TYPE_MASK)`, the settings byte (R89). -/
def settingsField (cfg : Config) (v : Byte) : Byte := v &&& (cfg.enableMask ||| cfg.accelTypeMask)

/-- The selection of a read's opening byte (R57, R76). -/
def readSelection (b : Byte) : Byte := selectionOf b

end Sys2Proof.Machine
end

