-- ==== Sys2Proof/Machine/Latches.lean ====
section
/-! DEFINITION. The pin output latches (R29): a list of (pin, level) pairs in one canonical form, keys strictly rising. -/

namespace Sys2Proof.Machine

/-- The levels most recently driven, by pin id. -/
abbrev Latches := List (Pin × Level)

/-- The level of pin `p`. A pin that was never given a level reads low; the block has only the twelve pins of its
`cfg`, and those are all listed from reset on (log 17). -/
def latchGet (ls : Latches) (p : Pin) : Level :=
  match ls with
  | [] => .low
  | (q, l) :: rest => if p = q then l else latchGet rest p

/-- `pin[p] <- l`, keeping the keys strictly rising. -/
def latchSet (ls : Latches) (p : Pin) (l : Level) : Latches :=
  match ls with
  | [] => [(p, l)]
  | (q, m) :: rest =>
    if p < q then (p, l) :: (q, m) :: rest
    else if p = q then (p, l) :: rest
    else (q, m) :: latchSet rest p l

/-- The canonical form: pin ids strictly rising, so that latches that read alike and list the same pins are equal. -/
abbrev Latches.wf (ls : Latches) : Prop := (ls.map Prod.fst).Pairwise (· < ·)

/-- Several levels given in order. -/
def latchSetAll (ls : Latches) (ws : List (Pin × Level)) : Latches :=
  match ws with
  | [] => ls
  | (p, l) :: rest => latchSetAll (latchSet ls p l) rest

end Sys2Proof.Machine
end

