-- ==== Sys2Proof/Machine/State.lean ====
section
/-! DEFINITION. The state of the block (spec/10_state.md), the reasons a step can stop, and the state after reset. -/

namespace Sys2Proof.Machine

/-- A channel record, in the order of R10's table. -/
structure Channel where
  dutyPin : Pin
  forwardPin : Pin
  reversePin : Pin
  duty : Byte
  target : Byte
  direction : Bool
  targetDirection : Bool
  enabled : Bool
  paused : Bool
  outputLevel : Bool
  motorType : MotorType
  servoRefreshCount : Byte
  accelType : Byte
  accelRate : Byte
  accelStepCount : Byte
  minimumDuty : Byte
deriving DecidableEq, Repr

/-- What the environment can deliver. The order of the list in `State.inputs` is the total order of R49, R50. -/
inductive Input where
  /-- an operation in its wire format: a write or read transaction, a tick, a bus event -/
  | wire (w : Wire)
  /-- a later data-read event of a read transaction of several bytes (R83) -/
  | readMore
  /-- the bus hardware has consumed the outgoing byte (R31, R76) -/
  | byteTaken
  /-- RESET (R170) -/
  | reset
deriving DecidableEq, Repr

/-- The state: configuration, Register Map (R10, R25 to R28), pins (R29, R35), front-end (R31), and two fields of the
model's own. -/
structure State where
  /-- the configuration record (R6); nothing writes it (log 1) -/
  cfg : Config
  /-- the channel records `ch[0..3]` (R10) -/
  ch : Quad Channel
  /-- R25 -/
  globalEnable : Bool
  /-- R26 -/
  globalPause : Bool
  /-- R27 -/
  settings : Byte
  /-- R28 -/
  pendingCommand : Byte
  /-- the pin output latches (R29) -/
  pins : Latches
  /-- every pin write since reset, oldest first (R35) -/
  trace : List (Pin × Level)
  /-- R31 -/
  clockHeld : Bool
  /-- R31 -/
  irqPending : Bool
  /-- the outgoing buffer (R31) -/
  tx : Byte
  /-- R31 -/
  txPending : Bool
  /-- the model's own: what the environment delivers next, first entry first (log 2) -/
  inputs : List Input
  /-- the model's own: how many unspecified bytes have been drawn (log 5) -/
  freeCount : Nat
deriving DecidableEq, Repr

/-- The stuck states of R163, reached when the environment asks for an operation that is not enabled. The block
itself has no fault (R150). Both are safe: the model stops where the block does not act either. -/
inductive Fault where
  /-- Raised by every bus operation while the clock is held between operations: an address-read event released it
  nowhere, and no operation of the bus agent is enabled again (R78). Safe. -/
  | busHeld
  /-- Raised by every bus operation and every tick while the front-end waits for the master to take the outgoing
  byte: no operation of either agent is enabled (R76, R163, R180). Safe. -/
  | readWait
deriving DecidableEq, Repr

/-- What the spec gives no meaning. -/
inductive Refusal where
  /-- Raised by `exec` for an instruction that has no meaning yet; no arm of this model raises it. Safe. -/
  | notModelled (mnemonic : String)
  /-- Raised by a tick in which a `RAMP` selects the Stop or the Accelerate arm with an `Undecodable` profile (R145).
  Safe: the spec asks a model to refuse it. -/
  | undecodableProfile
  /-- Raised by every operation under a configuration that R7 excludes. Safe: the spec asks a model to refuse it. -/
  | illFormedConfig
deriving DecidableEq, Repr

/-- Channel record `i` after reset (R10's table, R34). -/
def Channel.resetOf (cfg : Config) (i : ChIdx) : Channel where
  dutyPin := cfg.pinDuty.get i
  forwardPin := cfg.pinFwd.get i
  reversePin := cfg.pinRev.get i
  duty := 0
  target := if i = cfg.leftIdx ∨ i = cfg.rightIdx then 0 else cfg.resetTarget.get i
  direction := false
  targetDirection := if i = cfg.leftIdx ∨ i = cfg.rightIdx then false else cfg.resetTargetDirection.get i
  enabled := cfg.resetEnabled.get i
  paused := cfg.resetPaused.get i
  outputLevel := false
  motorType := cfg.motorType.get i
  servoRefreshCount := 0
  accelType := cfg.resetAccelType
  accelRate := cfg.resetAccelRate
  accelStepCount := 0
  minimumDuty := cfg.resetMinimumDuty

/-- The pin levels at reset (R35): duty pins low, forward pins high, reverse pins low. -/
def pinsAtReset (cfg : Config) : List (Pin × Level) :=
  cfg.pinDuty.toList.map (·, Level.low) ++ cfg.pinFwd.toList.map (·, Level.high) ++
    cfg.pinRev.toList.map (·, Level.low)

/-- The block after `RESET` under `cfg` (R34, R35, R31, R170). `tx` is unspecified there: DESIGN CHOICE 0 (log 3). -/
def State.resetOf (cfg : Config) : State where
  cfg := cfg
  ch := Quad.ofFn (Channel.resetOf cfg)
  globalEnable := cfg.resetGlobalEnable
  globalPause := false
  settings := 0
  pendingCommand := 0
  pins := latchSetAll [] (pinsAtReset cfg)
  trace := []
  clockHeld := false
  irqPending := false
  tx := 0
  txPending := false
  inputs := []
  freeCount := 0

/-- The machine right after reset, under the default configuration (R34, log 1). -/
def State.reset : State := State.resetOf Config.default

end Sys2Proof.Machine
end

