-- ==== Sys2Proof/Machine/Ops.lean ====
section
/-! DEFINITION. The named operations over the state: the conditions under which an operation is enabled, channel
access, pin writes, entry to and exit from the bus interrupt, the outgoing byte, the free byte. -/

namespace Sys2Proof.Machine

/-- What an operation answers. -/
abbrev Result := Host.Outcome State Fault Refusal

/-- Sequencing: a stop ends the operation, and nothing of it happened. -/
def andThen (r : Result) (k : State → Result) : Result :=
  match r with
  | .next s => k s
  | .fault f => .fault f
  | .refused f => .refused f

/-- An ill-formed configuration gives no operation a meaning (R7, log 19). -/
def guardCfg (s : State) (r : Result) : Result :=
  if s.cfg.wf then r else .refused .illFormedConfig

/-- An operation of the bus agent, answering `t` when it is enabled: not while the front-end waits for the master (R163), not while
the clock stays held (R78). -/
def onBus (s : State) (t : State) : Result :=
  guardCfg s (if s.txPending then .fault .readWait else if s.clockHeld then .fault .busHeld else .next t)

/-- An operation of the tick agent: not while the front-end waits for the master (R163, R180). A held clock does not
stop it (R78). -/
def onTick (s : State) (r : Result) : Result :=
  guardCfg s (if s.txPending then .fault .readWait else r)

/-- Channel record `i`. -/
def State.chan (s : State) (i : ChIdx) : Channel := s.ch.get i

/-- `L` (R10). -/
def State.leftChan (s : State) : Channel := s.chan s.cfg.leftIdx

/-- `R` (R10). -/
def State.rightChan (s : State) : Channel := s.chan s.cfg.rightIdx

/-- `f` applied to channel record `i`. -/
def State.modChan (s : State) (i : ChIdx) (f : Channel → Channel) : State :=
  { s with ch := s.ch.modify i f }

/-- `f` applied to all four channel records (R22). -/
def State.modAll (s : State) (f : Channel → Channel) : State :=
  { s with ch := s.ch.map f }

/-- The level of pin `p` (R29). -/
def State.pin (s : State) (p : Pin) : Level := latchGet s.pins p

/-- `setPinLevel(p, l)`: the latch takes the level and the write is appended to the trace (R35). -/
def State.setPinLevel (s : State) (p : Pin) (l : Level) : State :=
  { s with pins := latchSet s.pins p l, trace := s.trace ++ [(p, l)] }

/-- Several pin writes in order. -/
def State.writePins (s : State) (ws : List (Pin × Level)) : State :=
  match ws with
  | [] => s
  | (p, l) :: rest => (s.setPinLevel p l).writePins rest

/-- TAKING THE BUS INTERRUPT (R71, R155): the hardware holds the clock and raises the pending condition; nothing is
saved and no mode changes. -/
def State.busEntry (s : State) : State := { s with clockHeld := true, irqPending := true }

/-- `releaseBusClock()`, made by every arm of the front-end (R160). -/
def State.releaseClock (s : State) : State := { s with clockHeld := false }

/-- RETURN FROM THE BUS INTERRUPT (R77, R156): the pending condition is cleared; releasing the clock is the arms'. -/
def State.busExit (s : State) : State := { s with irqPending := false }

/-- The write to the outgoing buffer: `tx <- b; txPending <- true` (R76, R160). -/
def State.putByte (s : State) (b : Byte) : State := { s with tx := b, txPending := true }

/-- A completed read transaction: the master has the byte `b`, nothing is left pending (log 8). -/
def State.returnByte (s : State) (b : Byte) : State := { s with tx := b }

/-- The next unspecified byte (R101, R83). -/
def State.freeByte (s : State) : Byte := Config.freeByte s.freeCount

/-- The state after the next unspecified byte has been drawn. -/
def State.drawn (s : State) : State := { s with freeCount := s.freeCount + 1 }

end Sys2Proof.Machine
end

