-- ==== Sys2Proof/Machine/Commands.lean ====
section
/-! DEFINITION. The ten register-write commands and their dispatch (spec/41_commands.md R85 to R97). The `apply…`
functions are the effects on the Register Map; the bus front-end uses them through `dispatch`. A whole write transaction
(the `exec…` functions) leaves a code that is already latched in `pendingCommand` latched: DESIGN CHOICE, log 24. -/

namespace Sys2Proof.Machine

/-- `SetTarget(c, v)` (R86): 0 below the floor, the comparison unsigned and strict. -/
def setTarget (v : Byte) (c : Channel) : Channel :=
  { c with target := if v < c.minimumDuty then 0 else v }

/-- SPEED (R87). -/
def applySpeed (v : Byte) (s : State) : State :=
  (s.modChan s.cfg.leftIdx (setTarget v)).modChan s.cfg.rightIdx (setTarget v)

/-- LEFT (R88). -/
def applyLeft (v : Byte) (s : State) : State := s.modChan s.cfg.leftIdx (setTarget v)

/-- RIGHT (R96). -/
def applyRight (v : Byte) (s : State) : State := s.modChan s.cfg.rightIdx (setTarget v)

/-- SETTINGS (R89). -/
def applySettings (v : Byte) (s : State) : State :=
  { s.modAll (fun c => { c with accelType := accelTypeField s.cfg v }) with
    globalEnable := flagTrue v s.cfg.enableMask
    settings := settingsField s.cfg v }

/-- DIRECTION (R90). -/
def applyDirection (v : Byte) (s : State) : State :=
  (s.modChan s.cfg.leftIdx (fun c => { c with targetDirection := directionLeftBit v })).modChan s.cfg.rightIdx
    (fun c => { c with targetDirection := directionRightBit v })

/-- ENABLE (R91): all three bits inverted. -/
def applyEnable (v : Byte) (s : State) : State :=
  { (s.modChan s.cfg.leftIdx (fun c => { c with enabled := flagInverted v s.cfg.leftMask })).modChan s.cfg.rightIdx
      (fun c => { c with enabled := flagInverted v s.cfg.rightMask }) with
    globalEnable := flagInverted v s.cfg.globalMask }

/-- PAUSE (R92): the global bit true, left and right inverted. -/
def applyPause (v : Byte) (s : State) : State :=
  { (s.modChan s.cfg.leftIdx (fun c => { c with paused := flagInverted v s.cfg.leftMask })).modChan s.cfg.rightIdx
      (fun c => { c with paused := flagInverted v s.cfg.rightMask }) with
    globalPause := flagTrue v s.cfg.globalMask }

/-- ACCEL (R93): any byte is stored. -/
def applyAccel (v : Byte) (s : State) : State := s.modAll (fun c => { c with accelType := v })

/-- ACCEL_RATE (R94). -/
def applyAccelRate (v : Byte) (s : State) : State := s.modAll (fun c => { c with accelRate := v })

/-- MINIMUM_DUTY (R95): `target` and `duty` are not rewritten. -/
def applyMinimumDuty (v : Byte) (s : State) : State := s.modAll (fun c => { c with minimumDuty := v })

/-- `Dispatch(code, v)` (R85); a code that matches nothing writes nothing (R97). -/
def dispatch (code v : Byte) (s : State) : State :=
  if code = s.cfg.codeSpeed then applySpeed v s
  else if code = s.cfg.codeLeft then applyLeft v s
  else if code = s.cfg.codeRight then applyRight v s
  else if code = s.cfg.codeSettings then applySettings v s
  else if code = s.cfg.codeDirection then applyDirection v s
  else if code = s.cfg.codeEnable then applyEnable v s
  else if code = s.cfg.codePause then applyPause v s
  else if code = s.cfg.codeAccel then applyAccel v s
  else if code = s.cfg.codeAccelRate then applyAccelRate v s
  else if code = s.cfg.codeMinimumDuty then applyMinimumDuty v s
  else s

/-- `CMD SPEED, v` (R87). A latched code stays (log 24). -/
def execSpeed (v : Byte) (s : State) : Result := onBus s (applySpeed v s)

/-- `CMD LEFT, v` (R88). A latched code stays (log 24). -/
def execLeft (v : Byte) (s : State) : Result := onBus s (applyLeft v s)

/-- `CMD RIGHT, v` (R96). A latched code stays (log 24). -/
def execRight (v : Byte) (s : State) : Result := onBus s (applyRight v s)

/-- `CMD SETTINGS, v` (R89). A latched code stays (log 24). -/
def execSettings (v : Byte) (s : State) : Result := onBus s (applySettings v s)

/-- `CMD DIRECTION, v` (R90). A latched code stays (log 24). -/
def execDirection (v : Byte) (s : State) : Result := onBus s (applyDirection v s)

/-- `CMD ENABLE, v` (R91). A latched code stays (log 24). -/
def execEnable (v : Byte) (s : State) : Result := onBus s (applyEnable v s)

/-- `CMD PAUSE, v` (R92). A latched code stays (log 24). -/
def execPause (v : Byte) (s : State) : Result := onBus s (applyPause v s)

/-- `CMD ACCEL, v` (R93). A latched code stays (log 24). -/
def execAccel (v : Byte) (s : State) : Result := onBus s (applyAccel v s)

/-- `CMD ACCEL_RATE, v` (R94). A latched code stays (log 24). -/
def execAccelRate (v : Byte) (s : State) : Result := onBus s (applyAccelRate v s)

/-- `CMD MINIMUM_DUTY, v` (R95). A latched code stays (log 24). -/
def execMinimumDuty (v : Byte) (s : State) : Result := onBus s (applyMinimumDuty v s)

/-- `CMD code, v` with a code of none of the ten commands (R97). A latched code stays: DESIGN CHOICE, log 24. -/
def execUnknownCommand (s : State) : Result := onBus s s

end Sys2Proof.Machine
end

