-- ==== Sys2Proof/Machine/Readback.lean ====
section
/-! DEFINITION. The read-backs (spec/41_commands.md R98 to R101). A `READ` is a whole read transaction: the byte it
returns stands in `tx` afterwards and nothing is pending (log 8). -/

namespace Sys2Proof.Machine

/-- `ReadValue(CODE_LEFT)` (R98). -/
def leftByte (s : State) : Byte := s.leftChan.duty

/-- `ReadValue(CODE_RIGHT)` (R98). -/
def rightByte (s : State) : Byte := s.rightChan.duty

/-- `ReadValue(CODE_SETTINGS)` (R99): the stored byte. -/
def settingsByte (s : State) : Byte := s.settings

/-- `ReadValue(CODE_SPEED)` (R100): the left channel's duty. UNVERIFIED: the spec's decision D25 (log 22). -/
def speedByte (s : State) : Byte := s.leftChan.duty

/-- `ReadValue(sel)` when `sel` is a readable code, none when it is not (R98 to R101). -/
def readValue (sel : Byte) (s : State) : Option Byte :=
  if sel = s.cfg.codeLeft then some (leftByte s)
  else if sel = s.cfg.codeRight then some (rightByte s)
  else if sel = s.cfg.codeSettings then some (settingsByte s)
  else if sel = s.cfg.codeSpeed then some (speedByte s)
  else none

/-- `READ LEFT` (R98). -/
def execReadLeft (_w : Bool) (s : State) : Result := onBus s (s.returnByte (leftByte s))

/-- `READ RIGHT` (R98). -/
def execReadRight (_w : Bool) (s : State) : Result := onBus s (s.returnByte (rightByte s))

/-- `READ SETTINGS` (R99). -/
def execReadSettings (_w : Bool) (s : State) : Result := onBus s (s.returnByte (settingsByte s))

/-- `READ SPEED` (R100). -/
def execReadSpeed (_w : Bool) (s : State) : Result := onBus s (s.returnByte (speedByte s))

/-- `READ sel` with a selection of none of the four (R101): any byte. -/
def execReadUnknown (s : State) : Result := onBus s (s.drawn.returnByte s.freeByte)

end Sys2Proof.Machine
end

