-- ==== Sys2Proof/Machine/BusFront.lean ====
section
/-! DEFINITION. The bus front-end (spec/40_bus_frontend.md R70 to R83): `BUSEVENT`, its arms, and the environment's
side of the read. -/

namespace Sys2Proof.Machine

/-- The error arm (R73): the byte is dropped and the clock released. -/
def errorArm (s : State) : State := s.releaseClock

/-- The address-write arm (R74). -/
def addressWriteArm (s : State) : State := { s with pendingCommand := 0 }.releaseClock

/-- A data byte under write direction: latched as a code, or dispatched as the value of the latched one (R75). -/
def takeDataByte (b : Byte) (s : State) : State :=
  if s.pendingCommand = 0 then { s with pendingCommand := b }
  else { dispatch s.pendingCommand b s with pendingCommand := 0 }

/-- The data-write arm (R75). -/
def dataWriteArm (b : Byte) (s : State) : State := (takeDataByte b s).releaseClock

/-- The byte a data-read event sends: the selected one, or an unspecified one (R76, R101). -/
def sendSelected (b : Byte) (s : State) : State :=
  match readValue (readSelection b) s with
  | some v => s.putByte v
  | none => s.drawn.putByte s.freeByte

/-- The data-read arm up to its wait (R76). The exit of R77 comes when the wait ends (log 9). -/
def dataReadArm (b : Byte) (s : State) : State := (sendSelected b s).releaseClock

/-- `BUSEVENT o a w rx` (R70): entry, the first arm whose condition holds, exit. Address phase with read direction
matches no arm: it exits with the clock still held (R78). A data-read event has not returned yet. -/
def busEvent (o a w : Bool) (rx : Byte) (s : State) : State :=
  if o then (errorArm s.busEntry).busExit
  else if a && w then (addressWriteArm s.busEntry).busExit
  else if !a && w then (dataWriteArm rx s.busEntry).busExit
  else if !a && !w then dataReadArm rx s.busEntry
  else s.busEntry.busExit

/-- `BUSEVENT o a w rx` as an operation of the bus agent. -/
def execBusevent (o a w : Bool) (rx : Byte) (s : State) : Result := onBus s (busEvent o a w rx s)

/-- A later data-read event of a read of several bytes: the byte sent is unspecified (R83, log 14). -/
def execReadMore (s : State) : Result :=
  onBus s ((s.busEntry.drawn.putByte s.freeByte).releaseClock)

/-- The pair `[0][v]` of a write transaction (R62, log 12): an address-write event, the byte 0, the byte `v`.
The address phase forgets a latched code, unlike the other `CV` words (log 24). -/
def execCommandZero (v : Byte) (s : State) : Result :=
  onBus s (takeDataByte v (takeDataByte 0 { s with pendingCommand := 0 }))

/-- The bus hardware has consumed the outgoing byte: the wait of R76 ends and the front-end returns through R77. With
nothing pending nothing happens (log 20). -/
def execByteTaken (s : State) : Result :=
  guardCfg s (.next (if s.txPending then { s with txPending := false }.busExit else s))

/-- `RESET` (R170). The environment's list and the count of drawn bytes are not the block's (log 16). -/
def execReset (s : State) : Result :=
  guardCfg s (.next { State.resetOf s.cfg with inputs := s.inputs, freeCount := s.freeCount })

end Sys2Proof.Machine
end

