-- ==== Sys2Proof/Machine/Ramp.lean ====
section
/-! DEFINITION. The acceleration engine: `RAMP` with its arms and profiles (spec/43_ramp.md R125 to R146). Duties are
computed as natural numbers, where nothing wraps (R146). -/

namespace Sys2Proof.Machine

/-- The three profiles (R21); an `Undecodable` byte is `none` of them. -/
inductive Profile where
  | instant
  | linear
  | exponential
deriving DecidableEq, Repr

/-- `profile(a)` (R21). -/
def profileOf (cfg : Config) (a : Byte) : Option Profile :=
  if a = cfg.accelInstant then some .instant
  else if a = cfg.accelLinear then some .linear
  else if a = cfg.accelExponential then some .exponential
  else none

/-- `Bucket(x)` (R135). -/
def bucket (x : Nat) : Nat :=
  if x > 200 then 50
  else if x > 150 then 25
  else if x > 100 then 20
  else if x > 75 then 10
  else if x > 50 then 5
  else 1

/-- `InstantStep(d, t, b, stop)` (R133). -/
def instantStep (d t b : Nat) (stop : Bool) : Nat :=
  if stop then (if d > b then b else d) else t

/-- `ExpDecay(d, b, m)` (R136): the distance is measured from the floor, the step clamped at the bound. -/
def expDecay (d b m : Nat) : Nat := d - min (bucket (d - m)) (d - b)

/-- `ExpGrow(d, t, m)` (R137): the top bucket is uncapped. -/
def expGrow (dist : ExpGrowDist) (d t m : Nat) : Nat :=
  let x := match dist with
    | .toTarget => t - d
    | .fromFloor => d - m
  if x > 200 then t else d + min (bucket x) (t - d)

/-- The decay bound (R130). -/
def decayBound (t m : Nat) : Nat := max t m

/-- Profile dispatch, after the pre-step correction (R132). -/
def profileStep (dist : ExpGrowDist) (d t m : Nat) (p : Profile) (stop : Bool) : Nat :=
  match p with
  | .instant => instantStep d t (decayBound t m) stop
  | .linear =>
    if d < t then d + 1
    else if d > decayBound t m then d - 1
    else d
  | .exponential =>
    if d < t then expGrow dist d t m
    else if d > decayBound t m then expDecay d (decayBound t m) m
    else d

/-- `RampCore(d, t, m, p, stop)` (R132), with the two floor snaps of R129 and R131 before the profile. -/
def rampCore (dist : ExpGrowDist) (d t m : Nat) (p : Profile) (stop : Bool) : Nat :=
  if d < m ∧ m ≤ t then profileStep dist m t m p stop
  else if d ≤ m ∧ t < m then 0
  else profileStep dist d t m p stop

/-- What a sub-step of a tick does to one channel: its new record, and the pin writes it makes, in order. -/
structure ChanStep where
  chan : Channel
  writes : List (Pin × Level)
deriving DecidableEq, Repr

/-- `DriveDirectionPins` (R141): the pin being released first. `direction = false` is forward. -/
def driveDirectionPins (c : Channel) : List (Pin × Level) :=
  if c.direction then [(c.forwardPin, .low), (c.reversePin, .high)]
  else [(c.reversePin, .low), (c.forwardPin, .high)]

/-- The condition of the Stop arm (R126). -/
def stopCondition (globalPause : Bool) (c : Channel) : Bool :=
  globalPause || c.paused || c.direction != c.targetDirection

/-- The Stop arm's new duty: a ramp towards 0 (R126). -/
def stopDuty (cfg : Config) (p : Profile) (c : Channel) : Byte :=
  BitVec.ofNat 8 (rampCore cfg.expGrowDist c.duty.toNat 0 c.minimumDuty.toNat p true)

/-- The flip (R140): the record with the direction taken over, and its pins driven again. -/
def flipDirection (c : Channel) : ChanStep :=
  let c' := { c with direction := c.targetDirection }
  { chan := c', writes := driveDirectionPins c' }

/-- The Stop arm (R126): the duty first, then the flip test in the same step. -/
def stopArm (cfg : Config) (p : Profile) (c : Channel) : ChanStep :=
  let c' := { c with duty := stopDuty cfg p c }
  if c'.duty = 0 ∧ c'.direction ≠ c'.targetDirection then flipDirection c' else { chan := c', writes := [] }

/-- The effective target `te` (R128). -/
def effectiveTarget (c : Channel) : Byte := if c.target < c.minimumDuty then 0 else c.target

/-- The Accelerate arm's new duty: a ramp towards the effective target (R127). -/
def accelerateDuty (cfg : Config) (p : Profile) (c : Channel) : Byte :=
  BitVec.ofNat 8
    (rampCore cfg.expGrowDist c.duty.toNat (effectiveTarget c).toNat c.minimumDuty.toNat p false)

/-- The Accelerate arm (R127). -/
def accelerateArm (cfg : Config) (p : Profile) (c : Channel) : ChanStep :=
  { chan := { c with duty := accelerateDuty cfg p c }, writes := [] }

/-- `RAMP` (R125): Stop, Accelerate or nothing; `none` when an arm is selected with an undecodable profile (R145,
log 10). -/
def ramp (cfg : Config) (globalPause : Bool) (c : Channel) : Option ChanStep :=
  if stopCondition globalPause c then (profileOf cfg c.accelType).map (fun p => stopArm cfg p c)
  else if c.duty ≠ c.target then (profileOf cfg c.accelType).map (fun p => accelerateArm cfg p c)
  else some { chan := c, writes := [] }

end Sys2Proof.Machine
end

