-- ==== Sys2Proof/Machine/Tick.lean ====
section
/-! DEFINITION. `TICK`: the comparator, the servo divider, force-low and the acceleration divider
(spec/42_pwm_tick.md R105 to R115). -/

namespace Sys2Proof.Machine

/-- `SERVO_DIV` (R6): on-windows between servo pulses. -/
def servoDiv : Byte := 20

/-- `OutputDC` (R107). -/
def outputDC (cnt : Byte) (c : Channel) : ChanStep :=
  if comparatorOn cnt c.duty && !c.outputLevel then
    { chan := { c with outputLevel := true }, writes := [(c.dutyPin, .high)] }
  else if !comparatorOn cnt c.duty && c.outputLevel then
    { chan := { c with outputLevel := false }, writes := [(c.dutyPin, .low)] }
  else { chan := c, writes := [] }

/-- The refresh count after an on-window opens: one more, and 0 on reaching `SERVO_DIV` (R108). -/
def servoAdvance (count : Byte) : Byte := if count + 1 = servoDiv then 0 else count + 1

/-- `OutputServo` (R108). UNVERIFIED: the spec's algorithm, its decision D15 (log 22). -/
def outputServo (cnt : Byte) (c : Channel) : ChanStep :=
  if comparatorOn cnt c.duty && !c.outputLevel then
    { chan := { c with outputLevel := true, servoRefreshCount := servoAdvance c.servoRefreshCount }
      writes := if c.servoRefreshCount = 0 then [(c.dutyPin, .high)] else [] }
  else if !comparatorOn cnt c.duty && c.outputLevel then
    { chan := { c with outputLevel := false }, writes := [(c.dutyPin, .low)] }
  else { chan := c, writes := [] }

/-- The output decision by motor type (R105). -/
def outputDecision (cnt : Byte) (c : Channel) : ChanStep :=
  match c.motorType with
  | .dc => outputDC cnt c
  | .servo => outputServo cnt c

/-- `ForceLow` (R111). -/
def forceLow (c : Channel) : ChanStep :=
  { chan := { c with outputLevel := false, servoRefreshCount := 0, accelStepCount := 0 }
    writes := [(c.dutyPin, .low)] }

/-- `AccelDivider` (R112). -/
def accelDivider (cfg : Config) (globalPause : Bool) (c : Channel) : Option ChanStep :=
  if dividerReached c.accelStepCount c.accelRate then
    (ramp cfg globalPause c).map (fun r => { r with chan := { r.chan with accelStepCount := 0 } })
  else some { chan := { c with accelStepCount := c.accelStepCount + 1 }, writes := [] }

/-- A processed channel: the output decision with the duty of the start of the tick, then the divider (R113). -/
def processChannel (cfg : Config) (globalPause : Bool) (cnt : Byte) (c : Channel) : Option ChanStep :=
  let out := outputDecision cnt c
  (accelDivider cfg globalPause out.chan).map (fun r => { r with writes := out.writes ++ r.writes })

/-- One channel's share of a tick (R105, R106): processed, forced low, or left alone. -/
def tickChannel (cfg : Config) (globalEnable globalPause : Bool) (cnt : Byte) (c : Channel) : Option ChanStep :=
  if globalEnable && c.enabled then processChannel cfg globalPause cnt c
  else if c.outputLevel then some (forceLow c)
  else some { chan := c, writes := [] }

/-- The tick on channel `i` of the state. -/
def tickOne (cnt : Byte) (i : ChIdx) (s : State) : Result :=
  match tickChannel s.cfg s.globalEnable s.globalPause cnt (s.chan i) with
  | some r => .next ((s.modChan i (fun _ => r.chan)).writePins r.writes)
  | none => .refused .undecodableProfile

/-- The scan of the four channels in ascending order (R105, D14). -/
def tickAll (cnt : Byte) (s : State) : Result :=
  andThen (andThen (andThen (tickOne cnt 0 s) (tickOne cnt 1)) (tickOne cnt 2)) (tickOne cnt 3)

/-- `TICK cnt` (R105). -/
def execTick (cnt : Byte) (s : State) : Result := onTick s (tickAll cnt s)

end Sys2Proof.Machine
end

