-- ==== Sys2Proof/Machine/Dispatch.lean ====
section
/-! DEFINITION. One arm per operation of the code map. -/

namespace Sys2Proof.Machine

def exec (i : Instr) (s : State) : Host.Outcome State Fault Refusal :=
  match i with
  | .speed v => Sys2Proof.Machine.execSpeed v s
  | .left v => Sys2Proof.Machine.execLeft v s
  | .right v => Sys2Proof.Machine.execRight v s
  | .settings v => Sys2Proof.Machine.execSettings v s
  | .direction v => Sys2Proof.Machine.execDirection v s
  | .enable v => Sys2Proof.Machine.execEnable v s
  | .pause v => Sys2Proof.Machine.execPause v s
  | .accel v => Sys2Proof.Machine.execAccel v s
  | .accelRate v => Sys2Proof.Machine.execAccelRate v s
  | .minimumDuty v => Sys2Proof.Machine.execMinimumDuty v s
  | .readLeft w => Sys2Proof.Machine.execReadLeft w s
  | .readRight w => Sys2Proof.Machine.execReadRight w s
  | .readSettings w => Sys2Proof.Machine.execReadSettings w s
  | .readSpeed w => Sys2Proof.Machine.execReadSpeed w s
  | .tick cnt => Sys2Proof.Machine.execTick cnt s
  | .busevent o a w rx => Sys2Proof.Machine.execBusevent o a w rx s

end Sys2Proof.Machine
end

