-- ==== Sys2Proof/Machine/Inputs.lean ====
section
/-! DEFINITION. What the environment delivers, run: the decoded operation, or what the spec says of a word that is no
row of the code map (log 13). -/

namespace Sys2Proof.Machine

/-- A word of the wire that is no row of the code map. -/
def runUndecoded (e : DecodeError) (s : State) : Result :=
  match e with
  | .unknownCommand _ _ => execUnknownCommand s
  | .commandZero v => execCommandZero v s
  | .unknownSelection _ => execReadUnknown s

/-- A wire word, decoded under the state's configuration. -/
def runWire (w : Wire) (s : State) : Result :=
  match decode s.cfg w with
  | .ok i => exec i s
  | .error e => runUndecoded e s

/-- One entry of the environment's list. -/
def runInput (e : Input) (s : State) : Result :=
  match e with
  | .wire w => runWire w s
  | .readMore => execReadMore s
  | .byteTaken => execByteTaken s
  | .reset => execReset s

/-- No event is due: the block does nothing by itself (R30). -/
def idle (s : State) : Result := guardCfg s (.next s)

end Sys2Proof.Machine
end

