-- ==== Sys2Proof/Machine/Step.lean ====
section
/-! DEFINITION. One step: the next entry of the environment's list is taken off and run (log 2). -/

namespace Sys2Proof.Machine

/-- One step of the machine. -/
def step (s : State) : Host.Outcome State Fault Refusal :=
  match s.inputs with
  | [] => idle s
  | e :: rest => runInput e { s with inputs := rest }

/-- `s` with a word of the table as the environment's next event (log 2, log 15). -/
def State.withFetchWord (s : State) (nbits w : Nat) : State :=
  match wireOfTableWord nbits w with
  | some x => { s with inputs := .wire x :: s.inputs }
  | none => s

end Sys2Proof.Machine
end

