-- ==== Sys2Proof/Safety.lean ====
section
/-! DEFINITION. The terms claims are stated in: when an operation is enabled, what a tick finds on a channel, the
invariants of the block (R23, R24), and the nominal sequence of ticks (R181). -/

namespace Sys2Proof.Safety

open Sys2Proof.Machine

/-- The operations of the bus agent are enabled (R7, R78, R163). -/
abbrev BusReady (s : State) : Prop := s.cfg.wf = true ∧ s.txPending = false ∧ s.clockHeld = false

/-- The operation of the tick agent is enabled (R7, R163). -/
abbrev TickReady (s : State) : Prop := s.cfg.wf = true ∧ s.txPending = false

/-- Channel `i` is processed by a tick (R106). -/
abbrev Processed (s : State) (i : ChIdx) : Prop := s.globalEnable = true ∧ (s.chan i).enabled = true

/-- A tick runs `RAMP` on channel `i` (R112). -/
abbrev RampDue (s : State) (i : ChIdx) : Prop := Processed s i ∧ (s.chan i).accelRate ≤ (s.chan i).accelStepCount

/-- The condition of the Stop arm on channel `i` (R126). -/
abbrev Stopping (s : State) (i : ChIdx) : Prop :=
  s.globalPause = true ∨ (s.chan i).paused = true ∨ (s.chan i).direction ≠ (s.chan i).targetDirection

/-- `a` is one of the three profile codes (R21). -/
abbrev Decodable (cfg : Config) (a : Byte) : Prop :=
  a = cfg.accelInstant ∨ a = cfg.accelLinear ∨ a = cfg.accelExponential

/-- Wherever a tick selects the Stop or the Accelerate arm it finds a decodable profile (R145). -/
abbrev TickDecodable (s : State) : Prop :=
  ∀ i : ChIdx, RampDue s i → (Stopping s i ∨ (s.chan i).duty ≠ (s.chan i).target) → Decodable s.cfg (s.chan i).accelType

/-- `RAMP` does nothing on channel `i`: no stop is asked for and the duty is at its target (R143). -/
abbrev Steady (s : State) (i : ChIdx) : Prop := ¬ Stopping s i ∧ (s.chan i).duty = (s.chan i).target

/-- The operations of the table that are ticks. -/
def isTick (i : Instr) : Bool :=
  match i with
  | .tick _ => true
  | _ => false

/-- The ten commands of the table. -/
def isCommand (i : Instr) : Bool :=
  match i with
  | .speed _ | .left _ | .right _ | .settings _ | .direction _ | .enable _ | .pause _ | .accel _ | .accelRate _
  | .minimumDuty _ => true
  | _ => false

/-- Channel `k`'s target is one that the target command `i` writes (R87, R88, R96). -/
def WritesTarget (cfg : Config) (i : Instr) (k : ChIdx) : Prop :=
  match i with
  | .speed _ => k = cfg.leftIdx ∨ k = cfg.rightIdx
  | .left _ => k = cfg.leftIdx
  | .right _ => k = cfg.rightIdx
  | _ => False

/-- What holds of every channel: its pins and motor type are the configuration's (R11, R17), and R24 (a) to (e). -/
structure ChannelInv (s : State) (i : ChIdx) : Prop where
  dutyPin : (s.chan i).dutyPin = s.cfg.pinDuty.get i
  forwardPin : (s.chan i).forwardPin = s.cfg.pinFwd.get i
  reversePin : (s.chan i).reversePin = s.cfg.pinRev.get i
  motorType : (s.chan i).motorType = s.cfg.motorType.get i
  /-- R24 (a) -/
  dcPin : (s.chan i).motorType = .dc → (s.pin (s.chan i).dutyPin = .high ↔ (s.chan i).outputLevel = true)
  /-- R24 (b) -/
  servoPin : (s.chan i).motorType = .servo → s.pin (s.chan i).dutyPin = .high → (s.chan i).outputLevel = true
  /-- R24 (c) -/
  servoRange : (s.chan i).servoRefreshCount.toNat ≤ 19
  /-- R24 (d) -/
  dcCount : (s.chan i).motorType = .dc → (s.chan i).servoRefreshCount = 0
  /-- R24 (e) -/
  forwardLevel : s.pin (s.chan i).forwardPin = if (s.chan i).direction then .low else .high
  /-- R24 (e) -/
  reverseLevel : s.pin (s.chan i).reversePin = if (s.chan i).direction then .high else .low

/-- The invariant of the block: the configuration is well formed (R7), every channel is as above (R24), the latches
are canonical and are what the trace of pin writes makes of the reset levels (R29, R35), only the block's own pins are
written (R43), `settings` holds only the two masks' bits (R27), the interrupt is pending between operations only while the front-end
waits (R76, R77), and it never waits with the clock held. -/
structure Inv (s : State) : Prop where
  cfgWf : s.cfg.wf = true
  channels : ∀ i, ChannelInv s i
  latchesWf : Latches.wf s.pins
  latchesTrace : s.pins = latchSetAll (latchSetAll [] (pinsAtReset s.cfg)) s.trace
  ownPins : ∀ w ∈ s.trace, w.1 ∈ s.cfg.allPins
  settingsBits : s.settings &&& ~~~(s.cfg.enableMask ||| s.cfg.accelTypeMask) = 0
  waiting : s.irqPending = s.txPending
  notBoth : ¬ (s.txPending = true ∧ s.clockHeld = true)

/-- The first `n` ticks of the nominal environment (R181): counter values 0, 1, ... modulo 256. -/
def nominalTicks (n : Nat) : List Input := (List.range n).map (fun k => .wire (.tk (BitVec.ofNat 8 k)))

/-- `n` steps from `s`, or the first stop among them. -/
def runSteps (n : Nat) (s : State) : Result := Host.Core.run Sys2Proof.core n s

/-- The first `n` ticks of the nominal environment, run from `s` with nothing else delivered. -/
def afterTicks (s : State) (n : Nat) : Result := runSteps n { s with inputs := nominalTicks n }

/-- The duty of channel `i` does not change during the first `n` nominal ticks (the premise of R109 and R110). -/
def KeepsDuty (s : State) (i : ChIdx) (n : Nat) : Prop :=
  ∀ k u, k ≤ n → afterTicks s k = .next u → (u.chan i).duty = (s.chan i).duty

/-- No `RAMP` of the nominal ticks can be refused on channel `i`: it is never run, or finds nothing to do for ever, or
its profile is decodable. -/
abbrev NeverRefused (s : State) (i : ChIdx) : Prop :=
  Processed s i → Steady s i ∨ Decodable s.cfg (s.chan i).accelType

end Sys2Proof.Safety
end

