-- ==== Sys2Proof/Certificates/Slice0/Obligations.lean ====
section
/-! DEFINITION. The statements for the provers. Terms: `Sys2Proof.Safety` (BusReady, TickReady, Processed, RampDue, Stopping,
Decodable, TickDecodable, Steady, WritesTarget, NeverRefused, Inv, nominalTicks, afterTicks, KeepsDuty). A frame is
written `t = { s with … }`: every field of the state outside the braces is unchanged, and so for a channel record. -/

open Sys2Proof Sys2Proof.Machine Sys2Proof.Safety

/-! ### Encoding -/

/-- R68, R56 to R59: under every well-formed configuration an encoded operation decodes to itself. -/
def Obligations.DecodeEncodeRoundTrip : Prop :=
  ∀ (cfg : Config) (i : Instr), cfg.wf = true → decode cfg (encode cfg i) = .ok i

/-- Every word that decodes to an operation is that operation's encoding: no two words mean the same. -/
def Obligations.DecodedWordIsTheEncoding : Prop :=
  ∀ (cfg : Config) (w : Wire) (i : Instr), decode cfg w = .ok i → encode cfg i = w

/-- The decoder rejects exactly a write with code 0 or an unknown code, and a read with an unknown selection. That such
words have no constructor is the model's choice (log 13): the spec gives each an effect, which `step` gives them too. -/
def Obligations.OnlyUnlistedWordsAreRejected : Prop :=
  ∀ (cfg : Config) (w : Wire),
    (∃ e, decode cfg w = .error e) ↔
      (∃ bits, w = .cv bits ∧ (cvCode bits = 0 ∨ cvCode bits ∉ cfg.codes)) ∨
      (∃ bits, w = .rd bits ∧ selectionOf bits ∉ cfg.readableCodes)

/-- Words written out bit by bit from the code map of 30_encoding.md section 3, one of each format and of every kind
of field. That eight bits matching no read row are a tick, and sixteen bits below 2048 a bus event, is the model's
choice of format (log 15); the command codes are the spec's defaults (log 1). -/
def Obligations.TableWordsDecodeToTheirOperations : Prop :=
  decodeTableWord 16 0b0001000011001000 = some (.speed 200) ∧
  decodeTableWord 16 0b0001001100000010 = some (.settings 2) ∧
  decodeTableWord 16 0b0001010000000110 = some (.direction 6) ∧
  decodeTableWord 16 0b0001100100011110 = some (.minimumDuty 30) ∧
  decodeTableWord 8 0b00100011 = some (.readLeft true) ∧
  decodeTableWord 8 0b00100110 = some (.readSettings false) ∧
  decodeTableWord 8 0b10000000 = some (.tick 128) ∧
  decodeTableWord 16 0b10110000000 = some (.busevent true false true 128) ∧
  decodeTableWord 16 0b00100010001 = some (.busevent false false true 17)

/-- When the environment's next event is a wire word that decodes to `i`, a step takes it off the list and is `exec` of
`i` (the model's form of the environment, log 2). -/
def Obligations.StepRunsTheDecodedOperation : Prop :=
  ∀ (s : State) (w : Wire) (rest : List Input) (i : Instr),
    s.inputs = .wire w :: rest → decode s.cfg w = .ok i → step s = exec i { s with inputs := rest }

/-! ### Commands

The frames say that a code latched in `pendingCommand` stays latched under a whole command word: the model's choice,
log 24. -/

/-- R86, R87: `CMD SPEED, v` completes whenever the bus agent may act; it writes the target of left and of right, 0
below that channel's floor, and nothing else (a code latched before stays latched, log 24). -/
def Obligations.SpeedWritesBothTargets : Prop :=
  ∀ (s : State) (v : Byte), BusReady s → ∃ t, exec (.speed v) s = .next t ∧ t = { s with ch := t.ch } ∧
    ∀ i, t.chan i =
      if i = s.cfg.leftIdx ∨ i = s.cfg.rightIdx then
        { s.chan i with target := if v.toNat < (s.chan i).minimumDuty.toNat then 0 else v }
      else s.chan i

/-- R86, R88: `CMD LEFT, v` completes and writes the left target alone (a latched code stays, log 24). -/
def Obligations.LeftWritesLeftTarget : Prop :=
  ∀ (s : State) (v : Byte), BusReady s → ∃ t, exec (.left v) s = .next t ∧ t = { s with ch := t.ch } ∧
    ∀ i, t.chan i =
      if i = s.cfg.leftIdx then
        { s.chan i with target := if v.toNat < (s.chan i).minimumDuty.toNat then 0 else v }
      else s.chan i

/-- R86, R96: `CMD RIGHT, v` completes and writes the right target alone (a latched code stays, log 24). -/
def Obligations.RightWritesRightTarget : Prop :=
  ∀ (s : State) (v : Byte), BusReady s → ∃ t, exec (.right v) s = .next t ∧ t = { s with ch := t.ch } ∧
    ∀ i, t.chan i =
      if i = s.cfg.rightIdx then
        { s.chan i with target := if v.toNat < (s.chan i).minimumDuty.toNat then 0 else v }
      else s.chan i

/-- `CMD SETTINGS, v` completes; the enable flag, the profile byte of all four channels and the settings byte are
written. The spec's decisions D3, D6, D7, D8 (log 22); a latched code stays (log 24). -/
def Obligations.SettingsWritesFlagTypeAndByte : Prop :=
  ∀ (s : State) (v : Byte), BusReady s → ∃ t, exec (.settings v) s = .next t ∧
    t = { s with ch := t.ch, globalEnable := decide (v &&& s.cfg.enableMask ≠ 0),
                 settings := v &&& (s.cfg.enableMask ||| s.cfg.accelTypeMask) } ∧
    ∀ i, t.chan i = { s.chan i with accelType := v &&& s.cfg.accelTypeMask }

/-- R90: `CMD DIRECTION, v` completes; left takes bit 1 and right bit 2 as the wanted direction, and nothing else is
written, `direction` in particular (a latched code stays, log 24). -/
def Obligations.DirectionWritesWantedDirections : Prop :=
  ∀ (s : State) (v : Byte), BusReady s → ∃ t, exec (.direction v) s = .next t ∧ t = { s with ch := t.ch } ∧
    ∀ i, t.chan i =
      if i = s.cfg.leftIdx then { s.chan i with targetDirection := v.toNat.testBit 1 }
      else if i = s.cfg.rightIdx then { s.chan i with targetDirection := v.toNat.testBit 2 }
      else s.chan i

/-- R91: `CMD ENABLE, v` completes; all three flags are the negation of their bit (a latched code stays, log 24). -/
def Obligations.EnableWritesInvertedFlags : Prop :=
  ∀ (s : State) (v : Byte), BusReady s → ∃ t, exec (.enable v) s = .next t ∧
    t = { s with ch := t.ch, globalEnable := decide (v &&& s.cfg.globalMask = 0) } ∧
    ∀ i, t.chan i =
      if i = s.cfg.leftIdx then { s.chan i with enabled := decide (v &&& s.cfg.leftMask = 0) }
      else if i = s.cfg.rightIdx then { s.chan i with enabled := decide (v &&& s.cfg.rightMask = 0) }
      else s.chan i

/-- R92: `CMD PAUSE, v` completes; the global flag has true polarity, left and right are inverted (a latched code
stays, log 24). -/
def Obligations.PauseWritesMixedFlags : Prop :=
  ∀ (s : State) (v : Byte), BusReady s → ∃ t, exec (.pause v) s = .next t ∧
    t = { s with ch := t.ch, globalPause := decide (v &&& s.cfg.globalMask ≠ 0) } ∧
    ∀ i, t.chan i =
      if i = s.cfg.leftIdx then { s.chan i with paused := decide (v &&& s.cfg.leftMask = 0) }
      else if i = s.cfg.rightIdx then { s.chan i with paused := decide (v &&& s.cfg.rightMask = 0) }
      else s.chan i

/-- `CMD ACCEL`, `CMD ACCEL_RATE`, `CMD MINIMUM_DUTY` complete and write their one field in all four channels. The
spec's decisions D3, D4 (log 22); a latched code stays (log 24). -/
def Obligations.ConfigurationCommandsWriteEveryChannel : Prop :=
  ∀ (s : State) (v : Byte), BusReady s →
    (∃ t, exec (.accel v) s = .next t ∧ t = { s with ch := t.ch } ∧
      ∀ i, t.chan i = { s.chan i with accelType := v }) ∧
    (∃ t, exec (.accelRate v) s = .next t ∧ t = { s with ch := t.ch } ∧
      ∀ i, t.chan i = { s.chan i with accelRate := v }) ∧
    (∃ t, exec (.minimumDuty v) s = .next t ∧ t = { s with ch := t.ch } ∧
      ∀ i, t.chan i = { s.chan i with minimumDuty := v })

/-- R97: a write transaction with an unknown code changes nothing (but that the event is over: the list of events is the
model's own, log 2; a code latched before stays latched, log 24). -/
def Obligations.UnknownCommandChangesNothing : Prop :=
  ∀ (s : State) (code v : Byte) (rest : List Input), BusReady s → code ≠ 0 → code ∉ s.cfg.codes →
    s.inputs = .wire (cvWord code v) :: rest → step s = .next { s with inputs := rest }

/-- A write transaction `[0][v]` is no command: the byte 0 does nothing and `v` is latched. The model runs the pair as
the front-end does (log 12). -/
def Obligations.ZeroCodePairLatchesItsValue : Prop :=
  ∀ (s : State) (v : Byte) (rest : List Input), BusReady s → s.inputs = .wire (cvWord 0 v) :: rest →
    step s = .next { s with inputs := rest, pendingCommand := v }

/-- The source's idempotence property, of all ten commands (an inference the spec marks as its own in 20_memory.md
section 2). -/
def Obligations.CommandsAreIdempotent : Prop :=
  ∀ (i : Instr) (s t : State), isCommand i = true → exec i s = .next t → exec i t = .next t

/-- R33: commands write only the bus agent's fields, ticks only the tick agent's, and a bus event, whatever its arm,
none of the tick agent's. That a command leaves a latched code alone is the model's choice (log 24). -/
def Obligations.TwoAgentsWriteDisjointFields : Prop :=
  ∀ (i : Instr) (s t : State), exec i s = .next t →
    (isCommand i = true →
      t = { s with ch := t.ch, globalEnable := t.globalEnable, globalPause := t.globalPause, settings := t.settings }) ∧
    (isTick i = false →
      t = { s with ch := t.ch, globalEnable := t.globalEnable, globalPause := t.globalPause, settings := t.settings,
                   pendingCommand := t.pendingCommand, clockHeld := t.clockHeld, irqPending := t.irqPending,
                   tx := t.tx, txPending := t.txPending, freeCount := t.freeCount } ∧
      ∀ k, t.chan k =
        { s.chan k with
          target := (t.chan k).target, targetDirection := (t.chan k).targetDirection, enabled := (t.chan k).enabled
          paused := (t.chan k).paused, accelType := (t.chan k).accelType, accelRate := (t.chan k).accelRate
          minimumDuty := (t.chan k).minimumDuty }) ∧
    (isTick i = true →
      t = { s with ch := t.ch, pins := t.pins, trace := t.trace } ∧
      ∀ k, t.chan k =
        { s.chan k with
          duty := (t.chan k).duty, direction := (t.chan k).direction, outputLevel := (t.chan k).outputLevel
          servoRefreshCount := (t.chan k).servoRefreshCount, accelStepCount := (t.chan k).accelStepCount })

/-! ### Read-backs -/

/-- `READ LEFT` and `READ RIGHT` complete and return the channel's current duty, not its target; nothing but the
outgoing byte is written (that a read is whole and leaves nothing pending is log 8). -/
def Obligations.ChannelReadsReturnDuty : Prop :=
  ∀ (s : State) (w : Bool), BusReady s →
    exec (.readLeft w) s = .next { s with tx := (s.chan s.cfg.leftIdx).duty } ∧
    exec (.readRight w) s = .next { s with tx := (s.chan s.cfg.rightIdx).duty }

/-- `READ SETTINGS` completes with the stored byte, `READ SPEED` with the left duty. The spec's decisions D7 and D25
(log 22); that a read is whole is log 8. -/
def Obligations.SettingsAndSpeedReadsComplete : Prop :=
  ∀ (s : State) (w : Bool), BusReady s →
    exec (.readSettings w) s = .next { s with tx := s.settings } ∧
    exec (.readSpeed w) s = .next { s with tx := (s.chan s.cfg.leftIdx).duty }

/-- The settings byte goes stale: after SETTINGS, an ENABLE and an ACCEL the read still returns what SETTINGS stored.
The spec's decision D7. -/
def Obligations.SettingsReadIsStale : Prop :=
  ∀ (s : State) (v e a : Byte) (w : Bool), BusReady s →
    ∃ t1 t2 t3 t4, exec (.settings v) s = .next t1 ∧ exec (.enable e) t1 = .next t2 ∧ exec (.accel a) t2 = .next t3 ∧
      exec (.readSettings w) t3 = .next t4 ∧ t4.tx = v &&& (s.cfg.enableMask ||| s.cfg.accelTypeMask) ∧
      t4.globalEnable = decide (e &&& s.cfg.globalMask = 0) ∧ ∀ i, (t4.chan i).accelType = a

/-- A read with an unknown selection completes and writes nothing but the outgoing byte, whatever byte that is. The
spec's decision D25; the byte is free (log 5, log 13). -/
def Obligations.UnknownReadWritesOnlyTheByte : Prop :=
  ∀ (s : State) (b : Byte) (rest : List Input), BusReady s → selectionOf b ∉ s.cfg.readableCodes →
    s.inputs = .wire (.rd b) :: rest →
    ∃ t, step s = .next t ∧ t = { s with inputs := rest, tx := t.tx, freeCount := t.freeCount }

/-! ### The bus front-end -/

/-- The error arm completes whatever the other flags and the byte are: nothing is written, the code stays latched, the
clock is free and the interrupt is cleared. (The overflow and collision conditions are outside the spec, log 21.) -/
def Obligations.BusErrorDropsTheByte : Prop :=
  ∀ (s : State) (a w : Bool) (rx : Byte), BusReady s →
    exec (.busevent true a w rx) s = .next { s with irqPending := false }

/-- R74: an address-write event completes, forgets a latched code and frees the clock. -/
def Obligations.BusAddressWriteStartsAFreshSequence : Prop :=
  ∀ (s : State) (rx : Byte), BusReady s →
    exec (.busevent false true true rx) s =
      .next { s with pendingCommand := 0, clockHeld := false, irqPending := false }

/-- R75: a data-write event completes; with nothing latched it latches the byte, with a code latched it is that
command on the byte, or nothing if the code is unknown, and the latch is empty again. -/
def Obligations.BusDataWriteLatchesOrDispatches : Prop :=
  ∀ (s : State) (rx : Byte), BusReady s →
    ∃ t, exec (.busevent false false true rx) s = .next t ∧
      (s.pendingCommand = 0 → t = { s with pendingCommand := rx, clockHeld := false, irqPending := false }) ∧
      (∀ i, decode s.cfg (cvWord s.pendingCommand rx) = .ok i →
        ∃ u, exec i s = .next u ∧ t = { u with pendingCommand := 0, clockHeld := false, irqPending := false }) ∧
      (s.pendingCommand ≠ 0 → s.pendingCommand ∉ s.cfg.codes →
        t = { s with pendingCommand := 0, clockHeld := false, irqPending := false })

/-- A data-read event completes up to its wait: the selected byte is in the outgoing buffer, nothing else but the free
counter is written, the clock is free and the front-end has not returned (log 9). The byte for SPEED is decision D25;
for an unknown selection it is free (log 5). -/
def Obligations.BusDataReadSendsTheSelectedByte : Prop :=
  ∀ (s : State) (rx : Byte), BusReady s →
    ∃ t, exec (.busevent false false false rx) s = .next t ∧
      t = { s with tx := t.tx, txPending := true, clockHeld := false, irqPending := true, freeCount := t.freeCount } ∧
      (selectionOf rx = s.cfg.codeLeft → t.tx = (s.chan s.cfg.leftIdx).duty) ∧
      (selectionOf rx = s.cfg.codeRight → t.tx = (s.chan s.cfg.rightIdx).duty) ∧
      (selectionOf rx = s.cfg.codeSettings → t.tx = s.settings) ∧
      (selectionOf rx = s.cfg.codeSpeed → t.tx = (s.chan s.cfg.leftIdx).duty)

/-- Address phase with read direction: no arm runs, the interrupt is cleared and the clock stays held. The spec's
decision D24. -/
def Obligations.BusAddressReadHoldsTheClock : Prop :=
  ∀ (s : State) (rx : Byte), BusReady s →
    exec (.busevent false true false rx) s = .next { s with clockHeld := true, irqPending := false }

/-- While the clock stays held no bus operation acts: no command, read or bus event, no word without a constructor
(unknown code, zero code, unknown selection), no later byte of a read; and ticks go on. The spec's decision D24 (R78,
R163); that the fault stands for its stuck state is log 6, that whole transactions are stuck as bus events are, log 7. -/
def Obligations.HeldClockStopsTheBusAgentOnly : Prop :=
  ∀ (s : State), s.cfg.wf = true → s.txPending = false → s.clockHeld = true →
    (∀ i, isTick i = false → exec i s = .fault .busHeld) ∧
    (∀ w rest, s.inputs = .wire w :: rest → (∀ cnt, w ≠ .tk cnt) → step s = .fault .busHeld) ∧
    (∀ rest, s.inputs = .readMore :: rest → step s = .fault .busHeld) ∧
    (∀ cnt, TickDecodable s → ∃ t, exec (.tick cnt) s = .next t ∧ t.clockHeld = true)

/-- While the front-end waits for the master no operation of either agent acts, words without a constructor and later
bytes of a read included, until the byte is taken; then the front-end has returned. RESET acts (log 16). The spec's
decision D24 (R163, R180); that the fault stands for its stuck state is log 6, that whole transactions are stuck too
log 7, the form of the wait log 9. -/
def Obligations.ReadWaitStopsBothAgents : Prop :=
  ∀ (s : State), s.cfg.wf = true → s.txPending = true →
    (∀ i, exec i s = .fault .readWait) ∧
    (∀ w rest, s.inputs = .wire w :: rest → step s = .fault .readWait) ∧
    (∀ rest, s.inputs = .readMore :: rest → step s = .fault .readWait) ∧
    (∀ rest, s.inputs = .byteTaken :: rest →
      step s = .next { s with inputs := rest, txPending := false, irqPending := false })

/-- A later data-read event of a read of several bytes sends a byte that nothing fixes and writes nothing else (log
14). -/
def Obligations.LaterReadByteWritesOnlyTheByte : Prop :=
  ∀ (s : State) (rest : List Input), BusReady s → s.inputs = .readMore :: rest →
    ∃ t, step s = .next t ∧
      t = { s with inputs := rest, tx := t.tx, txPending := true, clockHeld := false, irqPending := true,
                   freeCount := t.freeCount }

/-- The three bus events of a write transaction are the command, on every field but the front-end's own (an inference
the spec marks as its own, 40_bus_frontend.md section 2 (a)). -/
def Obligations.BusTransactionIsTheCommand : Prop :=
  ∀ (s : State) (x code v : Byte), BusReady s → code ≠ 0 →
    let events : List Input := [.wire (encode s.cfg (.busevent false true true x)),
      .wire (encode s.cfg (.busevent false false true code)), .wire (encode s.cfg (.busevent false false true v))]
    (∀ i, decode s.cfg (cvWord code v) = .ok i →
      ∃ u, exec i { s with inputs := [] } = .next u ∧
        Host.Core.run Sys2Proof.core 3 { s with inputs := events } =
          .next { u with pendingCommand := 0, irqPending := false }) ∧
    (code ∉ s.cfg.codes →
      Host.Core.run Sys2Proof.core 3 { s with inputs := events } =
        .next { s with inputs := [], pendingCommand := 0, irqPending := false })

/-- A data-read event whose byte the master takes is the read-back (an inference the spec marks as its own,
40_bus_frontend.md section 2 (c); log 8, log 9). -/
def Obligations.BusReadIsTheReadBack : Prop :=
  ∀ (s : State) (b : Byte) (i : Instr), BusReady s → decode s.cfg (.rd b) = .ok i →
    ∃ u, exec i { s with inputs := [] } = .next u ∧
      Host.Core.run Sys2Proof.core 2
          { s with inputs := [.wire (encode s.cfg (.busevent false false false b)), .byteTaken] } =
        .next { u with irqPending := false }

/-- A configuration outside the constraints gives no operation and no step a meaning. The spec's decisions D5, D6, D9
(log 19). -/
def Obligations.IllFormedConfigurationIsRefused : Prop :=
  ∀ (s : State), s.cfg.wf = false →
    (∀ i, exec i s = .refused .illFormedConfig) ∧ step s = .refused .illFormedConfig

/-! ### The tick -/

/-- `TICK cnt` completes, for every counter value, whenever no read waits and every `RAMP` it runs finds a decodable
profile where it needs one; it changes nothing but five fields of the channels, the latches and the trace. -/
def Obligations.TickCompletes : Prop :=
  ∀ (s : State) (cnt : Byte), TickReady s → TickDecodable s →
    ∃ t, exec (.tick cnt) s = .next t ∧ t = { s with ch := t.ch, pins := t.pins, trace := t.trace } ∧
      ∀ i, t.chan i =
        { s.chan i with
          duty := (t.chan i).duty, direction := (t.chan i).direction, outputLevel := (t.chan i).outputLevel
          servoRefreshCount := (t.chan i).servoRefreshCount, accelStepCount := (t.chan i).accelStepCount }

/-- A tick in which a `RAMP` selects an arm with an undecodable profile is refused. The spec's decision D4 (log 10,
log 11). -/
def Obligations.UndecodableProfileIsRefused : Prop :=
  ∀ (s : State) (cnt : Byte), TickReady s → ¬ TickDecodable s →
    exec (.tick cnt) s = .refused .undecodableProfile

/-- R107: a processed DC channel compares the counter with the duty of the start of the tick; its duty pin follows,
and is written only when its level changes. -/
def Obligations.DcPinFollowsTheComparator : Prop :=
  ∀ (s t : State) (cnt : Byte) (i : ChIdx), Inv s → exec (.tick cnt) s = .next t → Processed s i →
    (s.chan i).motorType = .dc →
    let on := decide (cnt.toNat < (s.chan i).duty.toNat)
    let p := (s.chan i).dutyPin
    (t.chan i).outputLevel = on ∧ t.pin p = (if on then .high else .low) ∧
      (t.chan i).servoRefreshCount = (s.chan i).servoRefreshCount ∧
      t.trace.filter (·.1 = p) =
        s.trace.filter (·.1 = p) ++ if on = (s.chan i).outputLevel then [] else [(p, if on then .high else .low)]

/-- A processed Servo channel opens its window at the first tick below the duty, counts the window, pulses only from
count 0, and writes the pin low when the window closes. The spec's algorithm, its decision D15 (log 22). -/
def Obligations.ServoWindowCountsAndPulses : Prop :=
  ∀ (s t : State) (cnt : Byte) (i : ChIdx), Inv s → exec (.tick cnt) s = .next t → Processed s i →
    (s.chan i).motorType = .servo →
    let on := decide (cnt.toNat < (s.chan i).duty.toNat)
    let opens := on && !(s.chan i).outputLevel
    let n := (s.chan i).servoRefreshCount.toNat
    let p := (s.chan i).dutyPin
    (t.chan i).outputLevel = on ∧
      (t.chan i).servoRefreshCount.toNat = (if opens then (n + 1) % 20 else n) ∧
      t.trace.filter (·.1 = p) =
        s.trace.filter (·.1 = p) ++
          if opens then (if n = 0 then [(p, .high)] else [])
          else if !on && (s.chan i).outputLevel then [(p, .low)] else []

/-- A channel that is not processed is forced low if it is marked on, with its two counters cleared, and is otherwise
left alone; its duty and direction are frozen. The spec's decisions D16, D28 (log 22). -/
def Obligations.UnprocessedChannelIsForcedLowOnce : Prop :=
  ∀ (s t : State) (cnt : Byte) (i : ChIdx), Inv s → exec (.tick cnt) s = .next t → ¬ Processed s i →
    let p := (s.chan i).dutyPin
    t.chan i = (if (s.chan i).outputLevel then
        { s.chan i with outputLevel := false, servoRefreshCount := 0, accelStepCount := 0 } else s.chan i) ∧
      t.pin p = .low ∧
      t.trace.filter (·.1 = p) =
        s.trace.filter (·.1 = p) ++ if (s.chan i).outputLevel then [(p, .low)] else []

/-- The divider of a processed channel: below the threshold it counts one and the duty and direction stay; at or above
it it starts again from 0. The `≥` is the spec's decision D17 (log 22). -/
def Obligations.DividerCountsToItsThreshold : Prop :=
  ∀ (s t : State) (cnt : Byte) (i : ChIdx), exec (.tick cnt) s = .next t → Processed s i →
    (t.chan i).accelStepCount.toNat =
        (if (s.chan i).accelRate.toNat ≤ (s.chan i).accelStepCount.toNat then 0
         else (s.chan i).accelStepCount.toNat + 1) ∧
      ((s.chan i).accelStepCount.toNat < (s.chan i).accelRate.toNat →
        (t.chan i).duty = (s.chan i).duty ∧ (t.chan i).direction = (s.chan i).direction)

/-- The pin writes of a tick come channel by channel in ascending order; a channel's duty pin is written at most once
and before its direction pins, which are before its direction pins, which are written both or neither, the released
one first. The scan order is the spec's decision D14, the order of the direction pins its D10 (log 22). -/
def Obligations.TickWritesPinsInOrder : Prop :=
  ∀ (s t : State) (cnt : Byte), exec (.tick cnt) s = .next t →
    ∃ d f : ChIdx → List (Pin × Level),
      t.trace = s.trace ++ (d 0 ++ f 0) ++ (d 1 ++ f 1) ++ (d 2 ++ f 2) ++ (d 3 ++ f 3) ∧
      t.pins = latchSetAll s.pins ((d 0 ++ f 0) ++ (d 1 ++ f 1) ++ (d 2 ++ f 2) ++ (d 3 ++ f 3)) ∧
      ∀ i, (d i = [] ∨ ∃ l, d i = [((s.chan i).dutyPin, l)]) ∧
        (f i = [] ∨ f i = [((s.chan i).reversePin, .low), ((s.chan i).forwardPin, .high)] ∨
          f i = [((s.chan i).forwardPin, .low), ((s.chan i).reversePin, .high)])

/-! ### The ramp -/

/-- The Stop arm: the duty ramps towards 0, and in the step that ends with duty 0 a wanted reversal is taken over and
the direction pins are driven, the released one first. The spec's decisions D10, D18, D19 (log 22). -/
def Obligations.StopArmRampsDownAndFlips : Prop :=
  ∀ (s t : State) (cnt : Byte) (i : ChIdx), Inv s → exec (.tick cnt) s = .next t → RampDue s i → Stopping s i →
    let c := s.chan i
    let c' := t.chan i
    let flips := decide (c'.duty = 0 ∧ c.direction ≠ c.targetDirection)
    (∃ p, profileOf s.cfg c.accelType = some p ∧
      c'.duty.toNat = rampCore s.cfg.expGrowDist c.duty.toNat 0 c.minimumDuty.toNat p true) ∧
    c'.direction = (if flips then c.targetDirection else c.direction) ∧
    t.trace.filter (fun w => w.1 = c.forwardPin ∨ w.1 = c.reversePin) =
      s.trace.filter (fun w => w.1 = c.forwardPin ∨ w.1 = c.reversePin) ++
        if flips then
          (if c.targetDirection then [(c.forwardPin, .low), (c.reversePin, .high)]
           else [(c.reversePin, .low), (c.forwardPin, .high)])
        else []

/-- The Accelerate arm moves the duty one `RampCore` step towards the target, and writes neither the direction nor the
direction pins. That a target below the floor is taken as 0 is the spec's decision D20, and the decay bound and the
Instant step past the floor inside `RampCore` are its D21 (log 22). -/
def Obligations.AccelerateArmRampsToTheEffectiveTarget : Prop :=
  ∀ (s t : State) (cnt : Byte) (i : ChIdx), Inv s → exec (.tick cnt) s = .next t → RampDue s i → ¬ Stopping s i →
    (s.chan i).duty ≠ (s.chan i).target →
    let c := s.chan i
    let te := if c.target.toNat < c.minimumDuty.toNat then 0 else c.target.toNat
    (∃ p, profileOf s.cfg c.accelType = some p ∧
      (t.chan i).duty.toNat = rampCore s.cfg.expGrowDist c.duty.toNat te c.minimumDuty.toNat p false) ∧
    (t.chan i).direction = c.direction ∧
    t.trace.filter (fun w => w.1 = c.forwardPin ∨ w.1 = c.reversePin) =
      s.trace.filter (fun w => w.1 = c.forwardPin ∨ w.1 = c.reversePin)

/-- R143: with no stop asked for and the duty at its target `RAMP` writes nothing, no duty, no direction, no direction
pin, whatever byte the profile field holds. (The output decision and the divider of the same tick write theirs.) -/
def Obligations.RampAtTargetWritesNothing : Prop :=
  ∀ (s t : State) (cnt : Byte) (i : ChIdx), Inv s → exec (.tick cnt) s = .next t → RampDue s i → ¬ Stopping s i →
    (s.chan i).duty = (s.chan i).target →
    let c := s.chan i
    (t.chan i).duty = c.duty ∧ (t.chan i).direction = c.direction ∧
    t.trace.filter (fun w => w.1 = c.forwardPin ∨ w.1 = c.reversePin) =
      s.trace.filter (fun w => w.1 = c.forwardPin ∨ w.1 = c.reversePin)

/-- R129: a duty below a floor that the target reaches is lifted to the floor, and the profile goes on from there in the
same step. -/
def Obligations.FloorSnapUpThenProfile : Prop :=
  ∀ (dist : ExpGrowDist) (d t m : Nat) (p : Profile) (stop : Bool), d < m → m ≤ t →
    rampCore dist d t m p stop = rampCore dist m t m p stop ∧
    rampCore dist m t m p stop = profileStep dist m t m p stop

/-- At or below the floor, with the target below it, the step ends with 0 whatever the profile. The spec's decision
D20 (log 22). -/
def Obligations.FloorSnapDownEndsTheStep : Prop :=
  ∀ (dist : ExpGrowDist) (d t m : Nat) (p : Profile) (stop : Bool), d ≤ m → t < m →
    rampCore dist d t m p stop = 0

/-- Instant: the Accelerate arm goes straight to the target, the Stop arm to the floor and in the next step to 0. The
spec's decisions D18, D21 (log 22). -/
def Obligations.InstantProfileSteps : Prop :=
  ∀ (dist : ExpGrowDist) (d t m : Nat), (t = 0 ∨ m ≤ t) →
    rampCore dist d t m .instant false = t ∧
    rampCore dist d 0 m .instant true = if m < d then m else 0

/-- Linear moves by exactly one and stops at the target or the bound; the two floor snaps are its only departures
(R134). The snap to 0 is the spec's decision D20, the bound its D21 (log 22). -/
def Obligations.LinearProfileStepsByOne : Prop :=
  ∀ (dist : ExpGrowDist) (d t m : Nat) (stop : Bool), (t = 0 ∨ m ≤ t) →
    rampCore dist d t m .linear stop =
      if d < m ∧ m ≤ t then (if m < t then m + 1 else m)
      else if d ≤ m ∧ t < m then 0
      else if d < t then d + 1
      else if max t m < d then d - 1
      else d

/-- R135: the six buckets, and that a greater distance never gives a smaller step. -/
def Obligations.BucketTable : Prop :=
  (∀ x : Nat, bucket x =
    if 200 < x then 50 else if 150 < x then 25 else if 100 < x then 20 else if 75 < x then 10 else if 50 < x then 5
    else 1) ∧
  ∀ x y : Nat, x ≤ y → bucket x ≤ bucket y

/-- Exponential decay measures from the floor and is clamped at the bound (R136); the bound is the spec's decision D21
(log 22). -/
def Obligations.ExponentialDecaySteps : Prop :=
  ∀ (dist : ExpGrowDist) (d t m : Nat) (stop : Bool), max t m < d →
    rampCore dist d t m .exponential stop = d - min (bucket (d - m)) (d - max t m)

/-- Exponential growth, above the floor, under both readings of its distance. The spec's decision D22 (log 22). -/
def Obligations.ExponentialGrowthSteps : Prop :=
  ∀ (d t m : Nat) (stop : Bool), m ≤ d → d < t →
    rampCore .toTarget d t m .exponential stop = (if 200 < t - d then t else d + min (bucket (t - d)) (t - d)) ∧
    rampCore .fromFloor d t m .exponential stop = (if 200 < d - m then t else d + min (bucket (d - m)) (t - d))

/-- No step crosses the target, and a Linear or Exponential step down that is no snap stops at the bound (an inference
the spec marks as its own, 43_ramp.md section 3; for Instant see log 23). -/
def Obligations.RampNeverOvershoots : Prop :=
  ∀ (dist : ExpGrowDist) (d t m : Nat) (p : Profile) (stop : Bool), (t = 0 ∨ m ≤ t) →
    let d' := rampCore dist d t m p stop
    (d < d' → d' ≤ t) ∧ (d' < d → t ≤ d') ∧ (d' < d → p ≠ .instant → m < d → max t m ≤ d')

/-- Repeated steps with constant inputs reach the target, in the Stop arm 0, within 256 steps, and stay (an inference
the spec marks as its own, 43_ramp.md section 3). -/
def Obligations.RampConverges : Prop :=
  ∀ (dist : ExpGrowDist) (d t m : Nat) (p : Profile), d ≤ 255 → t ≤ 255 → m ≤ 255 → (t = 0 ∨ m ≤ t) →
    ∀ k, 256 ≤ k →
      (fun x => rampCore dist x t m p false)^[k] d = t ∧ (fun x => rampCore dist x 0 m p true)^[k] d = 0

/-- The source's round trip, as the spec corrects it (41_commands.md section 7, conflict C7): a target that SPEED,
LEFT or RIGHT writes to a processed, unpaused Instant channel is its duty after the next `RAMP`, 0 if it was below the
floor. (What makes the tick run is that no channel's ramp is refused: the condition on every channel `j`, log 10, log
11.) -/
def Obligations.InstantTargetRoundTrip : Prop :=
  ∀ (s : State) (i : Instr) (v cnt : Byte) (k : ChIdx), BusReady s → (i = .speed v ∨ i = .left v ∨ i = .right v) →
    WritesTarget s.cfg i k → RampDue s k → ¬ Stopping s k → (s.chan k).accelType = s.cfg.accelInstant →
    (∀ j, RampDue s j → (Stopping s j ∨ (s.chan j).duty ≠ (s.chan j).target ∨ WritesTarget s.cfg i j) →
      Decodable s.cfg (s.chan j).accelType) →
    ∃ t u, exec i s = .next t ∧ exec (.tick cnt) t = .next u ∧
      (u.chan k).duty = if v.toNat < (s.chan k).minimumDuty.toNat then 0 else v

/-! ### The whole machine -/

/-- The direction of a channel changes only in a step that leaves its duty at 0, and then to the wanted one (the
source's first property, conflict C4; the moment of the flip is decision D19). -/
def Obligations.DirectionChangesOnlyAtZeroDuty : Prop :=
  ∀ (s t : State) (i : ChIdx), step s = .next t → (∀ rest, s.inputs ≠ .reset :: rest) →
    (t.chan i).direction ≠ (s.chan i).direction →
    (t.chan i).duty = 0 ∧ (t.chan i).direction = (s.chan i).targetDirection

/-- No step, RESET included, changes the configuration, a channel's pins or its motor type. The spec's decisions D9,
D12. -/
def Obligations.ChannelIdentityNeverChanges : Prop :=
  ∀ (s t : State), Inv s → step s = .next t →
    t.cfg = s.cfg ∧ ∀ i, (t.chan i).dutyPin = (s.chan i).dutyPin ∧ (t.chan i).forwardPin = (s.chan i).forwardPin ∧
      (t.chan i).reversePin = (s.chan i).reversePin ∧ (t.chan i).motorType = (s.chan i).motorType

/-- Every step keeps the invariant: the five derived invariants of the channels (R24, inferences the spec marks as its
own, 10_state.md section 2), the latches in canonical form and as the trace makes them (log 17; R29, R35), the
settings bits (R27), and the front-end's state between operations (R76, R77, over the model's form of the read wait,
log 9). -/
def Obligations.EveryStepKeepsTheInvariant : Prop :=
  ∀ (s t : State), Inv s → step s = .next t → Inv t

/-- The invariant holds at the machine's reset state, and after RESET under every well-formed configuration
(10_state.md section 2, decision D11). -/
def Obligations.InvariantHoldsAfterReset : Prop :=
  Inv State.reset ∧ ∀ cfg : Config, cfg.wf = true → Inv (State.resetOf cfg)

/-- What RESET leaves, under every well-formed configuration. The values are the spec's decision D11 (log 4); that
RESET acts in every state, a stuck one included, and keeps the configuration and the list of events is the model's
choice (log 16); `tx` is the model's choice (log 3) and not in the statement. -/
def Obligations.ResetValues : Prop :=
  ∀ (s : State) (rest : List Input), s.cfg.wf = true → s.inputs = .reset :: rest →
    ∃ t, step s = .next t ∧ t.cfg = s.cfg ∧ t.inputs = rest ∧ t.globalEnable = s.cfg.resetGlobalEnable ∧
      t.globalPause = false ∧ t.settings = 0 ∧ t.pendingCommand = 0 ∧ t.trace = [] ∧ t.clockHeld = false ∧
      t.irqPending = false ∧ t.txPending = false ∧
      ∀ i, (t.chan i).duty = 0 ∧ (t.chan i).direction = false ∧ (t.chan i).outputLevel = false ∧
        (t.chan i).servoRefreshCount = 0 ∧ (t.chan i).accelStepCount = 0 ∧
        (t.chan i).enabled = s.cfg.resetEnabled.get i ∧ (t.chan i).paused = s.cfg.resetPaused.get i ∧
        (t.chan i).motorType = s.cfg.motorType.get i ∧ (t.chan i).accelType = s.cfg.resetAccelType ∧
        (t.chan i).accelRate = s.cfg.resetAccelRate ∧ (t.chan i).minimumDuty = s.cfg.resetMinimumDuty ∧
        ((i = s.cfg.leftIdx ∨ i = s.cfg.rightIdx) → (t.chan i).target = 0 ∧ (t.chan i).targetDirection = false) ∧
        (i ≠ s.cfg.leftIdx → i ≠ s.cfg.rightIdx →
          (t.chan i).target = s.cfg.resetTarget.get i ∧
          (t.chan i).targetDirection = s.cfg.resetTargetDirection.get i) ∧
        t.pin (s.cfg.pinDuty.get i) = .low ∧ t.pin (s.cfg.pinFwd.get i) = .high ∧ t.pin (s.cfg.pinRev.get i) = .low

/-- After RESET nothing is driven: any ticks at all leave the state as it is, when the configuration leaves the engine
or every channel disabled (an inference the spec marks as its own, 70_reset_and_hazards.md section 1). -/
def Obligations.TicksAfterResetDoNothing : Prop :=
  ∀ (cfg : Config) (cnts : List Byte), cfg.wf = true →
    (cfg.resetGlobalEnable = false ∨ ∀ i, cfg.resetEnabled.get i = false) →
    Host.Core.run Sys2Proof.core cnts.length
        { State.resetOf cfg with inputs := cnts.map (fun c => .wire (.tk c)) } = .next (State.resetOf cfg)

/-- The DC waveform under the nominal ticks, whatever the other channels do: while a processed DC channel keeps its
duty, its pin is high after tick number `n` exactly when the counter value `n mod 256` is below the duty. The ticks
complete when no ramp can be refused, and a steady channel keeps its duty (an inference the spec marks as its own,
R109 in 42_pwm_tick.md section 2). -/
def Obligations.DcWaveform : Prop :=
  ∀ (s : State) (n : Nat), Inv s → s.txPending = false →
    ((∀ j, NeverRefused s j) → ∃ t, afterTicks s (n + 1) = .next t) ∧
    ∀ t i, afterTicks s (n + 1) = .next t →
      (Steady s i → (t.chan i).duty = (s.chan i).duty) ∧
      (Processed s i → (s.chan i).motorType = .dc → KeepsDuty s i n →
        (t.pin (s.chan i).dutyPin = .high ↔ n % 256 < (s.chan i).duty.toNat))

/-- The Servo waveform under the nominal ticks, whatever the other channels do: while a processed Servo channel that
starts from count 0 with the window closed keeps its duty above 0, it gives one pulse of `duty` ticks in every
twentieth frame, and the count at the end of frame `k` is `k + 1` modulo 20. The ticks complete when no ramp can be
refused (an inference the spec marks as its own, R110 in 42_pwm_tick.md section 2, over its decision D15, log 22). -/
def Obligations.ServoWaveform : Prop :=
  ∀ (s : State) (n : Nat), Inv s → s.txPending = false →
    ((∀ j, NeverRefused s j) → ∃ t, afterTicks s (n + 1) = .next t) ∧
    ∀ t i, afterTicks s (n + 1) = .next t → Processed s i → (s.chan i).motorType = .servo →
      (s.chan i).servoRefreshCount = 0 → (s.chan i).outputLevel = false → (s.chan i).duty ≠ 0 → KeepsDuty s i n →
      (t.chan i).servoRefreshCount.toNat = (n / 256 + 1) % 20 ∧
        (t.pin (s.chan i).dutyPin = .high ↔ n % 256 < (s.chan i).duty.toNat ∧ n / 256 % 20 = 0)
end

