-- ==== Sys2Proof/Laws/Quad.lean ====
section
/-! SUPPORT. Reading and writing one of four. -/

namespace Sys2Proof

@[simp] theorem Quad.get_set_same {α : Type} (q : Quad α) (i : ChIdx) (a : α) : (q.set i a).get i = a := by
  fin_cases i <;> rfl

theorem Quad.get_set_other {α : Type} (q : Quad α) {i j : ChIdx} (a : α) (h : j ≠ i) : (q.set i a).get j = q.get j := by
  fin_cases i <;> fin_cases j <;> first | rfl | exact absurd rfl h

theorem Quad.get_set {α : Type} (q : Quad α) (i j : ChIdx) (a : α) :
    (q.set i a).get j = if j = i then a else q.get j := by
  by_cases h : j = i
  · subst h; simp
  · simp [h, Quad.get_set_other q a h]

theorem Quad.get_modify {α : Type} (q : Quad α) (i j : ChIdx) (f : α → α) :
    (q.modify i f).get j = if j = i then f (q.get j) else q.get j := by
  unfold Quad.modify
  rw [Quad.get_set]
  split
  · next h => rw [h]
  · rfl

@[simp] theorem Quad.get_map {α β : Type} (f : α → β) (q : Quad α) (i : ChIdx) : (q.map f).get i = f (q.get i) := by
  fin_cases i <;> rfl

@[simp] theorem Quad.get_ofFn {α : Type} (f : ChIdx → α) (i : ChIdx) : (Quad.ofFn f).get i = f i := by
  fin_cases i <;> rfl

/-- Two groups that agree at every channel are equal. -/
theorem Quad.ext_get {α : Type} {q r : Quad α} (h : ∀ i, q.get i = r.get i) : q = r := by
  cases q; cases r
  have h0 := h 0; have h1 := h 1; have h2 := h 2; have h3 := h 3
  simp only [Quad.get] at h0 h1 h2 h3
  subst h0 h1 h2 h3
  rfl

theorem Quad.mem_toList {α : Type} (q : Quad α) (a : α) : a ∈ q.toList ↔ ∃ i, q.get i = a := by
  constructor
  · intro h
    simp only [Quad.toList, List.mem_cons, List.not_mem_nil, or_false] at h
    rcases h with h | h | h | h
    · exact ⟨0, h.symm⟩
    · exact ⟨1, h.symm⟩
    · exact ⟨2, h.symm⟩
    · exact ⟨3, h.symm⟩
  · rintro ⟨i, rfl⟩
    fin_cases i <;> simp [Quad.toList, Quad.get]

end Sys2Proof
end

