-- ==== Sys2Proof/Laws/Config.lean ====
section
/-! SUPPORT. What a well-formed configuration gives: distinct codes, distinct pins, two channels. -/

namespace Sys2Proof

/-- The checks of a well-formed configuration, one by one. -/
theorem Config.wf_checks {c : Config} (h : c.wf = true) :
    c.codesNonzero = true ∧ c.codesDistinct = true ∧ c.readableFit = true ∧ c.masksNonzero = true ∧
      c.settingsMasksDisjoint = true ∧ c.profilesDistinct = true ∧ c.pinsDistinct = true ∧ c.idxDistinct = true := by
  simpa [Config.wf, and_assoc] using h

theorem Config.left_ne_right {c : Config} (h : c.wf = true) : c.leftIdx ≠ c.rightIdx := by
  have := (Config.wf_checks h).2.2.2.2.2.2.2
  simpa [Config.idxDistinct] using this

theorem Config.codes_nodup {c : Config} (h : c.wf = true) : c.codes.Nodup := by
  simpa [Config.codesDistinct] using (Config.wf_checks h).2.1

theorem Config.zero_not_code {c : Config} (h : c.wf = true) : (0 : Byte) ∉ c.codes := by
  have := (Config.wf_checks h).1
  simp only [Config.codesNonzero, List.all_eq_true, bne_iff_ne] at this
  exact fun h0 => this 0 h0 rfl

theorem Config.readable_le {c : Config} (h : c.wf = true) {a : Byte} (ha : a ∈ c.readableCodes) : a ≤ 0x7F := by
  have := (Config.wf_checks h).2.2.1
  simp only [Config.readableFit, List.all_eq_true, decide_eq_true_eq] at this
  exact this a ha

theorem Config.pins_nodup {c : Config} (h : c.wf = true) : c.allPins.Nodup := by
  simpa [Config.pinsDistinct] using (Config.wf_checks h).2.2.2.2.2.2.1

theorem Quad.get_inj_of_nodup {α : Type} {q : Quad α} (h : q.toList.Nodup) {i j : ChIdx} (e : q.get i = q.get j) : i = j := by
  simp only [Quad.toList, List.nodup_cons, List.mem_cons, List.not_mem_nil, or_false, not_or] at h
  fin_cases i <;> fin_cases j <;> simp_all [Quad.get]

/-- Pins of well-formed configurations: a pin has one role and one channel. -/
theorem Config.pin_facts {c : Config} (h : c.wf = true) (i j : ChIdx) :
    (c.pinDuty.get i = c.pinDuty.get j → i = j) ∧ (c.pinFwd.get i = c.pinFwd.get j → i = j) ∧
      (c.pinRev.get i = c.pinRev.get j → i = j) ∧ c.pinDuty.get i ≠ c.pinFwd.get j ∧
      c.pinDuty.get i ≠ c.pinRev.get j ∧ c.pinFwd.get i ≠ c.pinRev.get j := by
  have hn := Config.pins_nodup h
  simp only [Config.allPins, List.nodup_append, List.mem_append] at hn
  obtain ⟨⟨hd, hf, hdf⟩, hr, hdr⟩ := hn
  have md := (Quad.mem_toList c.pinDuty _).2 ⟨i, rfl⟩
  have mf := (Quad.mem_toList c.pinFwd _).2 ⟨i, rfl⟩
  have mf' := (Quad.mem_toList c.pinFwd _).2 ⟨j, rfl⟩
  have mr' := (Quad.mem_toList c.pinRev _).2 ⟨j, rfl⟩
  exact ⟨Quad.get_inj_of_nodup hd, Quad.get_inj_of_nodup hf, Quad.get_inj_of_nodup hr, hdf _ md _ mf',
    hdr _ (Or.inl md) _ mr', hdr _ (Or.inr mf) _ mr'⟩

end Sys2Proof
end

