-- ==== Sys2Proof/Laws/State.lean ====
section
/-! SUPPORT. One lemma per field per update of the state. -/

namespace Sys2Proof.Machine

@[simp] theorem State.modChan_cfg (s : State) (i : ChIdx) (f : Channel → Channel) : (s.modChan i f).cfg = s.cfg := rfl
@[simp] theorem State.modChan_ch (s : State) (i : ChIdx) (f : Channel → Channel) : (s.modChan i f).ch = s.ch.modify i f := rfl
@[simp] theorem State.modChan_globalEnable (s : State) (i : ChIdx) (f : Channel → Channel) : (s.modChan i f).globalEnable = s.globalEnable := rfl
@[simp] theorem State.modChan_globalPause (s : State) (i : ChIdx) (f : Channel → Channel) : (s.modChan i f).globalPause = s.globalPause := rfl
@[simp] theorem State.modChan_settings (s : State) (i : ChIdx) (f : Channel → Channel) : (s.modChan i f).settings = s.settings := rfl
@[simp] theorem State.modChan_pendingCommand (s : State) (i : ChIdx) (f : Channel → Channel) : (s.modChan i f).pendingCommand = s.pendingCommand := rfl
@[simp] theorem State.modChan_pins (s : State) (i : ChIdx) (f : Channel → Channel) : (s.modChan i f).pins = s.pins := rfl
@[simp] theorem State.modChan_trace (s : State) (i : ChIdx) (f : Channel → Channel) : (s.modChan i f).trace = s.trace := rfl
@[simp] theorem State.modChan_clockHeld (s : State) (i : ChIdx) (f : Channel → Channel) : (s.modChan i f).clockHeld = s.clockHeld := rfl
@[simp] theorem State.modChan_irqPending (s : State) (i : ChIdx) (f : Channel → Channel) : (s.modChan i f).irqPending = s.irqPending := rfl
@[simp] theorem State.modChan_tx (s : State) (i : ChIdx) (f : Channel → Channel) : (s.modChan i f).tx = s.tx := rfl
@[simp] theorem State.modChan_txPending (s : State) (i : ChIdx) (f : Channel → Channel) : (s.modChan i f).txPending = s.txPending := rfl
@[simp] theorem State.modChan_inputs (s : State) (i : ChIdx) (f : Channel → Channel) : (s.modChan i f).inputs = s.inputs := rfl
@[simp] theorem State.modChan_freeCount (s : State) (i : ChIdx) (f : Channel → Channel) : (s.modChan i f).freeCount = s.freeCount := rfl

@[simp] theorem State.modAll_cfg (s : State) (f : Channel → Channel) : (s.modAll f).cfg = s.cfg := rfl
@[simp] theorem State.modAll_ch (s : State) (f : Channel → Channel) : (s.modAll f).ch = s.ch.map f := rfl
@[simp] theorem State.modAll_globalEnable (s : State) (f : Channel → Channel) : (s.modAll f).globalEnable = s.globalEnable := rfl
@[simp] theorem State.modAll_globalPause (s : State) (f : Channel → Channel) : (s.modAll f).globalPause = s.globalPause := rfl
@[simp] theorem State.modAll_settings (s : State) (f : Channel → Channel) : (s.modAll f).settings = s.settings := rfl
@[simp] theorem State.modAll_pendingCommand (s : State) (f : Channel → Channel) : (s.modAll f).pendingCommand = s.pendingCommand := rfl
@[simp] theorem State.modAll_pins (s : State) (f : Channel → Channel) : (s.modAll f).pins = s.pins := rfl
@[simp] theorem State.modAll_trace (s : State) (f : Channel → Channel) : (s.modAll f).trace = s.trace := rfl
@[simp] theorem State.modAll_clockHeld (s : State) (f : Channel → Channel) : (s.modAll f).clockHeld = s.clockHeld := rfl
@[simp] theorem State.modAll_irqPending (s : State) (f : Channel → Channel) : (s.modAll f).irqPending = s.irqPending := rfl
@[simp] theorem State.modAll_tx (s : State) (f : Channel → Channel) : (s.modAll f).tx = s.tx := rfl
@[simp] theorem State.modAll_txPending (s : State) (f : Channel → Channel) : (s.modAll f).txPending = s.txPending := rfl
@[simp] theorem State.modAll_inputs (s : State) (f : Channel → Channel) : (s.modAll f).inputs = s.inputs := rfl
@[simp] theorem State.modAll_freeCount (s : State) (f : Channel → Channel) : (s.modAll f).freeCount = s.freeCount := rfl

@[simp] theorem State.setPinLevel_cfg (s : State) (p : Pin) (l : Level) : (s.setPinLevel p l).cfg = s.cfg := rfl
@[simp] theorem State.setPinLevel_ch (s : State) (p : Pin) (l : Level) : (s.setPinLevel p l).ch = s.ch := rfl
@[simp] theorem State.setPinLevel_globalEnable (s : State) (p : Pin) (l : Level) : (s.setPinLevel p l).globalEnable = s.globalEnable := rfl
@[simp] theorem State.setPinLevel_globalPause (s : State) (p : Pin) (l : Level) : (s.setPinLevel p l).globalPause = s.globalPause := rfl
@[simp] theorem State.setPinLevel_settings (s : State) (p : Pin) (l : Level) : (s.setPinLevel p l).settings = s.settings := rfl
@[simp] theorem State.setPinLevel_pendingCommand (s : State) (p : Pin) (l : Level) : (s.setPinLevel p l).pendingCommand = s.pendingCommand := rfl
@[simp] theorem State.setPinLevel_pins (s : State) (p : Pin) (l : Level) : (s.setPinLevel p l).pins = latchSet s.pins p l := rfl
@[simp] theorem State.setPinLevel_trace (s : State) (p : Pin) (l : Level) : (s.setPinLevel p l).trace = s.trace ++ [(p, l)] := rfl
@[simp] theorem State.setPinLevel_clockHeld (s : State) (p : Pin) (l : Level) : (s.setPinLevel p l).clockHeld = s.clockHeld := rfl
@[simp] theorem State.setPinLevel_irqPending (s : State) (p : Pin) (l : Level) : (s.setPinLevel p l).irqPending = s.irqPending := rfl
@[simp] theorem State.setPinLevel_tx (s : State) (p : Pin) (l : Level) : (s.setPinLevel p l).tx = s.tx := rfl
@[simp] theorem State.setPinLevel_txPending (s : State) (p : Pin) (l : Level) : (s.setPinLevel p l).txPending = s.txPending := rfl
@[simp] theorem State.setPinLevel_inputs (s : State) (p : Pin) (l : Level) : (s.setPinLevel p l).inputs = s.inputs := rfl
@[simp] theorem State.setPinLevel_freeCount (s : State) (p : Pin) (l : Level) : (s.setPinLevel p l).freeCount = s.freeCount := rfl

@[simp] theorem State.busEntry_cfg (s : State) : (s.busEntry).cfg = s.cfg := rfl
@[simp] theorem State.busEntry_ch (s : State) : (s.busEntry).ch = s.ch := rfl
@[simp] theorem State.busEntry_globalEnable (s : State) : (s.busEntry).globalEnable = s.globalEnable := rfl
@[simp] theorem State.busEntry_globalPause (s : State) : (s.busEntry).globalPause = s.globalPause := rfl
@[simp] theorem State.busEntry_settings (s : State) : (s.busEntry).settings = s.settings := rfl
@[simp] theorem State.busEntry_pendingCommand (s : State) : (s.busEntry).pendingCommand = s.pendingCommand := rfl
@[simp] theorem State.busEntry_pins (s : State) : (s.busEntry).pins = s.pins := rfl
@[simp] theorem State.busEntry_trace (s : State) : (s.busEntry).trace = s.trace := rfl
@[simp] theorem State.busEntry_clockHeld (s : State) : (s.busEntry).clockHeld = true := rfl
@[simp] theorem State.busEntry_irqPending (s : State) : (s.busEntry).irqPending = true := rfl
@[simp] theorem State.busEntry_tx (s : State) : (s.busEntry).tx = s.tx := rfl
@[simp] theorem State.busEntry_txPending (s : State) : (s.busEntry).txPending = s.txPending := rfl
@[simp] theorem State.busEntry_inputs (s : State) : (s.busEntry).inputs = s.inputs := rfl
@[simp] theorem State.busEntry_freeCount (s : State) : (s.busEntry).freeCount = s.freeCount := rfl

@[simp] theorem State.releaseClock_cfg (s : State) : (s.releaseClock).cfg = s.cfg := rfl
@[simp] theorem State.releaseClock_ch (s : State) : (s.releaseClock).ch = s.ch := rfl
@[simp] theorem State.releaseClock_globalEnable (s : State) : (s.releaseClock).globalEnable = s.globalEnable := rfl
@[simp] theorem State.releaseClock_globalPause (s : State) : (s.releaseClock).globalPause = s.globalPause := rfl
@[simp] theorem State.releaseClock_settings (s : State) : (s.releaseClock).settings = s.settings := rfl
@[simp] theorem State.releaseClock_pendingCommand (s : State) : (s.releaseClock).pendingCommand = s.pendingCommand := rfl
@[simp] theorem State.releaseClock_pins (s : State) : (s.releaseClock).pins = s.pins := rfl
@[simp] theorem State.releaseClock_trace (s : State) : (s.releaseClock).trace = s.trace := rfl
@[simp] theorem State.releaseClock_clockHeld (s : State) : (s.releaseClock).clockHeld = false := rfl
@[simp] theorem State.releaseClock_irqPending (s : State) : (s.releaseClock).irqPending = s.irqPending := rfl
@[simp] theorem State.releaseClock_tx (s : State) : (s.releaseClock).tx = s.tx := rfl
@[simp] theorem State.releaseClock_txPending (s : State) : (s.releaseClock).txPending = s.txPending := rfl
@[simp] theorem State.releaseClock_inputs (s : State) : (s.releaseClock).inputs = s.inputs := rfl
@[simp] theorem State.releaseClock_freeCount (s : State) : (s.releaseClock).freeCount = s.freeCount := rfl

@[simp] theorem State.busExit_cfg (s : State) : (s.busExit).cfg = s.cfg := rfl
@[simp] theorem State.busExit_ch (s : State) : (s.busExit).ch = s.ch := rfl
@[simp] theorem State.busExit_globalEnable (s : State) : (s.busExit).globalEnable = s.globalEnable := rfl
@[simp] theorem State.busExit_globalPause (s : State) : (s.busExit).globalPause = s.globalPause := rfl
@[simp] theorem State.busExit_settings (s : State) : (s.busExit).settings = s.settings := rfl
@[simp] theorem State.busExit_pendingCommand (s : State) : (s.busExit).pendingCommand = s.pendingCommand := rfl
@[simp] theorem State.busExit_pins (s : State) : (s.busExit).pins = s.pins := rfl
@[simp] theorem State.busExit_trace (s : State) : (s.busExit).trace = s.trace := rfl
@[simp] theorem State.busExit_clockHeld (s : State) : (s.busExit).clockHeld = s.clockHeld := rfl
@[simp] theorem State.busExit_irqPending (s : State) : (s.busExit).irqPending = false := rfl
@[simp] theorem State.busExit_tx (s : State) : (s.busExit).tx = s.tx := rfl
@[simp] theorem State.busExit_txPending (s : State) : (s.busExit).txPending = s.txPending := rfl
@[simp] theorem State.busExit_inputs (s : State) : (s.busExit).inputs = s.inputs := rfl
@[simp] theorem State.busExit_freeCount (s : State) : (s.busExit).freeCount = s.freeCount := rfl

@[simp] theorem State.putByte_cfg (s : State) (b : Byte) : (s.putByte b).cfg = s.cfg := rfl
@[simp] theorem State.putByte_ch (s : State) (b : Byte) : (s.putByte b).ch = s.ch := rfl
@[simp] theorem State.putByte_globalEnable (s : State) (b : Byte) : (s.putByte b).globalEnable = s.globalEnable := rfl
@[simp] theorem State.putByte_globalPause (s : State) (b : Byte) : (s.putByte b).globalPause = s.globalPause := rfl
@[simp] theorem State.putByte_settings (s : State) (b : Byte) : (s.putByte b).settings = s.settings := rfl
@[simp] theorem State.putByte_pendingCommand (s : State) (b : Byte) : (s.putByte b).pendingCommand = s.pendingCommand := rfl
@[simp] theorem State.putByte_pins (s : State) (b : Byte) : (s.putByte b).pins = s.pins := rfl
@[simp] theorem State.putByte_trace (s : State) (b : Byte) : (s.putByte b).trace = s.trace := rfl
@[simp] theorem State.putByte_clockHeld (s : State) (b : Byte) : (s.putByte b).clockHeld = s.clockHeld := rfl
@[simp] theorem State.putByte_irqPending (s : State) (b : Byte) : (s.putByte b).irqPending = s.irqPending := rfl
@[simp] theorem State.putByte_tx (s : State) (b : Byte) : (s.putByte b).tx = b := rfl
@[simp] theorem State.putByte_txPending (s : State) (b : Byte) : (s.putByte b).txPending = true := rfl
@[simp] theorem State.putByte_inputs (s : State) (b : Byte) : (s.putByte b).inputs = s.inputs := rfl
@[simp] theorem State.putByte_freeCount (s : State) (b : Byte) : (s.putByte b).freeCount = s.freeCount := rfl

@[simp] theorem State.returnByte_cfg (s : State) (b : Byte) : (s.returnByte b).cfg = s.cfg := rfl
@[simp] theorem State.returnByte_ch (s : State) (b : Byte) : (s.returnByte b).ch = s.ch := rfl
@[simp] theorem State.returnByte_globalEnable (s : State) (b : Byte) : (s.returnByte b).globalEnable = s.globalEnable := rfl
@[simp] theorem State.returnByte_globalPause (s : State) (b : Byte) : (s.returnByte b).globalPause = s.globalPause := rfl
@[simp] theorem State.returnByte_settings (s : State) (b : Byte) : (s.returnByte b).settings = s.settings := rfl
@[simp] theorem State.returnByte_pendingCommand (s : State) (b : Byte) : (s.returnByte b).pendingCommand = s.pendingCommand := rfl
@[simp] theorem State.returnByte_pins (s : State) (b : Byte) : (s.returnByte b).pins = s.pins := rfl
@[simp] theorem State.returnByte_trace (s : State) (b : Byte) : (s.returnByte b).trace = s.trace := rfl
@[simp] theorem State.returnByte_clockHeld (s : State) (b : Byte) : (s.returnByte b).clockHeld = s.clockHeld := rfl
@[simp] theorem State.returnByte_irqPending (s : State) (b : Byte) : (s.returnByte b).irqPending = s.irqPending := rfl
@[simp] theorem State.returnByte_tx (s : State) (b : Byte) : (s.returnByte b).tx = b := rfl
@[simp] theorem State.returnByte_txPending (s : State) (b : Byte) : (s.returnByte b).txPending = s.txPending := rfl
@[simp] theorem State.returnByte_inputs (s : State) (b : Byte) : (s.returnByte b).inputs = s.inputs := rfl
@[simp] theorem State.returnByte_freeCount (s : State) (b : Byte) : (s.returnByte b).freeCount = s.freeCount := rfl

@[simp] theorem State.drawn_cfg (s : State) : (s.drawn).cfg = s.cfg := rfl
@[simp] theorem State.drawn_ch (s : State) : (s.drawn).ch = s.ch := rfl
@[simp] theorem State.drawn_globalEnable (s : State) : (s.drawn).globalEnable = s.globalEnable := rfl
@[simp] theorem State.drawn_globalPause (s : State) : (s.drawn).globalPause = s.globalPause := rfl
@[simp] theorem State.drawn_settings (s : State) : (s.drawn).settings = s.settings := rfl
@[simp] theorem State.drawn_pendingCommand (s : State) : (s.drawn).pendingCommand = s.pendingCommand := rfl
@[simp] theorem State.drawn_pins (s : State) : (s.drawn).pins = s.pins := rfl
@[simp] theorem State.drawn_trace (s : State) : (s.drawn).trace = s.trace := rfl
@[simp] theorem State.drawn_clockHeld (s : State) : (s.drawn).clockHeld = s.clockHeld := rfl
@[simp] theorem State.drawn_irqPending (s : State) : (s.drawn).irqPending = s.irqPending := rfl
@[simp] theorem State.drawn_tx (s : State) : (s.drawn).tx = s.tx := rfl
@[simp] theorem State.drawn_txPending (s : State) : (s.drawn).txPending = s.txPending := rfl
@[simp] theorem State.drawn_inputs (s : State) : (s.drawn).inputs = s.inputs := rfl
@[simp] theorem State.drawn_freeCount (s : State) : (s.drawn).freeCount = s.freeCount + 1 := rfl

/-- Pin writes in order are one write of the latches and one extension of the trace. -/
theorem State.writePins_eq (s : State) (ws : List (Pin × Level)) :
    s.writePins ws = { s with pins := latchSetAll s.pins ws, trace := s.trace ++ ws } := by
  induction ws generalizing s with
  | nil => simp [State.writePins, latchSetAll]
  | cons w rest ih =>
    obtain ⟨p, l⟩ := w
    simp [State.writePins, ih, latchSetAll, State.setPinLevel]

@[simp] theorem State.writePins_cfg (s : State) (ws : List (Pin × Level)) : (s.writePins ws).cfg = s.cfg := by
  rw [State.writePins_eq]

@[simp] theorem State.writePins_ch (s : State) (ws : List (Pin × Level)) : (s.writePins ws).ch = s.ch := by
  rw [State.writePins_eq]

@[simp] theorem State.writePins_globalEnable (s : State) (ws : List (Pin × Level)) : (s.writePins ws).globalEnable = s.globalEnable := by
  rw [State.writePins_eq]

@[simp] theorem State.writePins_globalPause (s : State) (ws : List (Pin × Level)) : (s.writePins ws).globalPause = s.globalPause := by
  rw [State.writePins_eq]

@[simp] theorem State.writePins_settings (s : State) (ws : List (Pin × Level)) : (s.writePins ws).settings = s.settings := by
  rw [State.writePins_eq]

@[simp] theorem State.writePins_pendingCommand (s : State) (ws : List (Pin × Level)) : (s.writePins ws).pendingCommand = s.pendingCommand := by
  rw [State.writePins_eq]

@[simp] theorem State.writePins_pins (s : State) (ws : List (Pin × Level)) : (s.writePins ws).pins = latchSetAll s.pins ws := by
  rw [State.writePins_eq]

@[simp] theorem State.writePins_trace (s : State) (ws : List (Pin × Level)) : (s.writePins ws).trace = s.trace ++ ws := by
  rw [State.writePins_eq]

@[simp] theorem State.writePins_clockHeld (s : State) (ws : List (Pin × Level)) : (s.writePins ws).clockHeld = s.clockHeld := by
  rw [State.writePins_eq]

@[simp] theorem State.writePins_irqPending (s : State) (ws : List (Pin × Level)) : (s.writePins ws).irqPending = s.irqPending := by
  rw [State.writePins_eq]

@[simp] theorem State.writePins_tx (s : State) (ws : List (Pin × Level)) : (s.writePins ws).tx = s.tx := by
  rw [State.writePins_eq]

@[simp] theorem State.writePins_txPending (s : State) (ws : List (Pin × Level)) : (s.writePins ws).txPending = s.txPending := by
  rw [State.writePins_eq]

@[simp] theorem State.writePins_inputs (s : State) (ws : List (Pin × Level)) : (s.writePins ws).inputs = s.inputs := by
  rw [State.writePins_eq]

@[simp] theorem State.writePins_freeCount (s : State) (ws : List (Pin × Level)) : (s.writePins ws).freeCount = s.freeCount := by
  rw [State.writePins_eq]

theorem State.chan_modChan (s : State) (i j : ChIdx) (f : Channel → Channel) :
    (s.modChan i f).chan j = if j = i then f (s.chan j) else s.chan j := Quad.get_modify s.ch i j f

@[simp] theorem State.chan_modAll (s : State) (i : ChIdx) (f : Channel → Channel) :
    (s.modAll f).chan i = f (s.chan i) := Quad.get_map f s.ch i

@[simp] theorem State.chan_writePins (s : State) (ws : List (Pin × Level)) (i : ChIdx) :
    (s.writePins ws).chan i = s.chan i := by
  simp [State.chan]

@[simp] theorem Channel.resetOf_chan (cfg : Config) (i : ChIdx) :
    (State.resetOf cfg).chan i = Channel.resetOf cfg i := Quad.get_ofFn (Channel.resetOf cfg) i

end Sys2Proof.Machine
end

