-- ==== Sys2Proof/Laws/Ops.lean ====
section
/-! SUPPORT. What the guards of the operations can answer. -/

namespace Sys2Proof.Machine

open Sys2Proof.Safety

/-- A bus operation answers a next state exactly when it is enabled, and it is the given one. -/
theorem onBus_next {s t u : State} : onBus s t = .next u ↔ BusReady s ∧ u = t := by
  unfold onBus guardCfg
  by_cases hw : s.cfg.wf = true <;> by_cases hp : s.txPending = true <;> by_cases hc : s.clockHeld = true <;>
    simp [BusReady, hw, hp, hc, eq_comm]

/-- An enabled bus operation answers its state. -/
theorem onBus_ready {s : State} (t : State) (h : BusReady s) : onBus s t = .next t := onBus_next.2 ⟨h, rfl⟩

/-- A tick operation answers a next state exactly when it is enabled and its body does. -/
theorem onTick_next {s u : State} {r : Result} : onTick s r = .next u ↔ TickReady s ∧ r = .next u := by
  unfold onTick guardCfg
  by_cases hw : s.cfg.wf = true <;> by_cases hp : s.txPending = true <;> simp [TickReady, hw, hp]

/-- An enabled tick operation answers what its body does. -/
theorem onTick_ready {s : State} (r : Result) (h : TickReady s) : onTick s r = r := by
  obtain ⟨hw, hp⟩ := h
  simp [onTick, guardCfg, hw, hp]

theorem guardCfg_next {s u : State} {r : Result} : guardCfg s r = .next u ↔ s.cfg.wf = true ∧ r = .next u := by
  unfold guardCfg
  by_cases hw : s.cfg.wf = true <;> simp [hw]

/-- A sequence answers a next state exactly when both parts do. -/
theorem andThen_next {r : Result} {k : State → Result} {u : State} :
    andThen r k = .next u ↔ ∃ s, r = .next s ∧ k s = .next u := by
  cases r <;> simp [andThen]

end Sys2Proof.Machine
end

