-- ==== Sys2Proof/Laws/Commands.lean ====
section
/-! SUPPORT. What the effects of the commands are, channel by channel, and what they leave alone. -/

namespace Sys2Proof.Machine

open Sys2Proof.Safety

/-- Left then right, each with its own update, on two different channels. -/
theorem State.chan_left_right {s : State} (h : s.cfg.wf = true) (f g : Channel → Channel) (i : ChIdx) :
    ((s.modChan s.cfg.leftIdx f).modChan s.cfg.rightIdx g).chan i =
      if i = s.cfg.leftIdx then f (s.chan i) else if i = s.cfg.rightIdx then g (s.chan i) else s.chan i := by
  have hne := Config.left_ne_right h
  rw [State.chan_modChan, State.chan_modChan]
  split_ifs with h1 h2 <;> simp_all

theorem applySpeed_chan {s : State} (h : s.cfg.wf = true) (v : Byte) (i : ChIdx) :
    (applySpeed v s).chan i =
      if i = s.cfg.leftIdx then setTarget v (s.chan i)
      else if i = s.cfg.rightIdx then setTarget v (s.chan i) else s.chan i :=
  State.chan_left_right h _ _ i

theorem applyLeft_chan (s : State) (v : Byte) (i : ChIdx) :
    (applyLeft v s).chan i = if i = s.cfg.leftIdx then setTarget v (s.chan i) else s.chan i :=
  State.chan_modChan s _ i _

theorem applyRight_chan (s : State) (v : Byte) (i : ChIdx) :
    (applyRight v s).chan i = if i = s.cfg.rightIdx then setTarget v (s.chan i) else s.chan i :=
  State.chan_modChan s _ i _

theorem applySettings_chan (s : State) (v : Byte) (i : ChIdx) :
    (applySettings v s).chan i = { s.chan i with accelType := v &&& s.cfg.accelTypeMask } :=
  State.chan_modAll s i _

theorem applyDirection_chan {s : State} (h : s.cfg.wf = true) (v : Byte) (i : ChIdx) :
    (applyDirection v s).chan i =
      if i = s.cfg.leftIdx then { s.chan i with targetDirection := directionLeftBit v }
      else if i = s.cfg.rightIdx then { s.chan i with targetDirection := directionRightBit v } else s.chan i :=
  State.chan_left_right h _ _ i

theorem applyEnable_chan {s : State} (h : s.cfg.wf = true) (v : Byte) (i : ChIdx) :
    (applyEnable v s).chan i =
      if i = s.cfg.leftIdx then { s.chan i with enabled := flagInverted v s.cfg.leftMask }
      else if i = s.cfg.rightIdx then { s.chan i with enabled := flagInverted v s.cfg.rightMask } else s.chan i :=
  State.chan_left_right h _ _ i

theorem applyPause_chan {s : State} (h : s.cfg.wf = true) (v : Byte) (i : ChIdx) :
    (applyPause v s).chan i =
      if i = s.cfg.leftIdx then { s.chan i with paused := flagInverted v s.cfg.leftMask }
      else if i = s.cfg.rightIdx then { s.chan i with paused := flagInverted v s.cfg.rightMask } else s.chan i :=
  State.chan_left_right h _ _ i

theorem applyAccel_chan (s : State) (v : Byte) (i : ChIdx) :
    (applyAccel v s).chan i = { s.chan i with accelType := v } := State.chan_modAll s i _

theorem applyAccelRate_chan (s : State) (v : Byte) (i : ChIdx) :
    (applyAccelRate v s).chan i = { s.chan i with accelRate := v } := State.chan_modAll s i _

theorem applyMinimumDuty_chan (s : State) (v : Byte) (i : ChIdx) :
    (applyMinimumDuty v s).chan i = { s.chan i with minimumDuty := v } := State.chan_modAll s i _

/-- `t` differs from `s` at most in what a command may write (R33). -/
structure CommandFrame (s t : State) : Prop where
  state : t = { s with ch := t.ch, globalEnable := t.globalEnable, globalPause := t.globalPause, settings := t.settings }
  chan : ∀ i, t.chan i =
    { s.chan i with
      target := (t.chan i).target, targetDirection := (t.chan i).targetDirection, enabled := (t.chan i).enabled
      paused := (t.chan i).paused, accelType := (t.chan i).accelType, accelRate := (t.chan i).accelRate
      minimumDuty := (t.chan i).minimumDuty }

/-- A command's effect is one of the ten, or none (R85). -/
theorem dispatch_cases {P : State → Prop} (s : State) (code v : Byte) (h0 : P s) (h1 : P (applySpeed v s))
    (h2 : P (applyLeft v s)) (h3 : P (applyRight v s)) (h4 : P (applySettings v s)) (h5 : P (applyDirection v s))
    (h6 : P (applyEnable v s)) (h7 : P (applyPause v s)) (h8 : P (applyAccel v s)) (h9 : P (applyAccelRate v s))
    (h10 : P (applyMinimumDuty v s)) : P (dispatch code v s) := by
  unfold dispatch
  split_ifs <;> assumption

theorem CommandFrame.refl (s : State) : CommandFrame s s := ⟨rfl, fun _ => rfl⟩

theorem commandFrame_modChan {s : State} (i : ChIdx) (f : Channel → Channel)
    (hf : ∀ c, f c = { c with
      target := (f c).target, targetDirection := (f c).targetDirection, enabled := (f c).enabled
      paused := (f c).paused, accelType := (f c).accelType, accelRate := (f c).accelRate
      minimumDuty := (f c).minimumDuty }) : CommandFrame s (s.modChan i f) := by
  refine ⟨rfl, fun j => ?_⟩
  rw [State.chan_modChan]
  split_ifs
  · exact hf _
  · rfl

theorem CommandFrame.trans {s t u : State} (h : CommandFrame s t) (k : CommandFrame t u) : CommandFrame s u := by
  refine ⟨?_, fun i => ?_⟩
  · rw [k.state, h.state]
  · rw [k.chan i, h.chan i]

/-- Every command keeps to the fields R33 gives it. -/
theorem dispatch_frame (s : State) (code v : Byte) : CommandFrame s (dispatch code v s) := by
  have two : ∀ (f g : Channel → Channel),
      (∀ c, f c = { c with
        target := (f c).target, targetDirection := (f c).targetDirection, enabled := (f c).enabled
        paused := (f c).paused, accelType := (f c).accelType, accelRate := (f c).accelRate
        minimumDuty := (f c).minimumDuty }) →
      (∀ c, g c = { c with
        target := (g c).target, targetDirection := (g c).targetDirection, enabled := (g c).enabled
        paused := (g c).paused, accelType := (g c).accelType, accelRate := (g c).accelRate
        minimumDuty := (g c).minimumDuty }) →
      CommandFrame s ((s.modChan s.cfg.leftIdx f).modChan s.cfg.rightIdx g) :=
    fun f g hf hg => (commandFrame_modChan _ f hf).trans (commandFrame_modChan _ g hg)
  refine dispatch_cases s code v (CommandFrame.refl s) (two _ _ ?_ ?_) (commandFrame_modChan _ _ ?_)
    (commandFrame_modChan _ _ ?_) ⟨rfl, fun i => ?_⟩ (two _ _ ?_ ?_) ?_ ?_ ⟨rfl, fun i => ?_⟩ ⟨rfl, fun i => ?_⟩
    ⟨rfl, fun i => ?_⟩
  · intro c; rfl
  · intro c; rfl
  · intro c; rfl
  · intro c; rfl
  · rw [applySettings_chan]
  · intro c; rfl
  · intro c; rfl
  · have h := two (fun c => { c with enabled := flagInverted v s.cfg.leftMask })
      (fun c => { c with enabled := flagInverted v s.cfg.rightMask }) (fun _ => rfl) (fun _ => rfl)
    exact ⟨rfl, h.chan⟩
  · have h := two (fun c => { c with paused := flagInverted v s.cfg.leftMask })
      (fun c => { c with paused := flagInverted v s.cfg.rightMask }) (fun _ => rfl) (fun _ => rfl)
    exact ⟨rfl, h.chan⟩
  · rw [applyAccel_chan]
  · rw [applyAccelRate_chan]
  · rw [applyMinimumDuty_chan]

/-- A code of none of the ten commands writes nothing (R97). -/
theorem dispatch_unknown (s : State) {code : Byte} (v : Byte) (h : code ∉ s.cfg.codes) : dispatch code v s = s := by
  simp only [Config.codes, List.mem_cons, List.not_mem_nil, or_false, not_or] at h
  obtain ⟨h1, h2, h3, h4, h5, h6, h7, h8, h9, h10⟩ := h
  unfold dispatch
  rw [if_neg h1, if_neg h2, if_neg h3, if_neg h4, if_neg h5, if_neg h6, if_neg h7, if_neg h8, if_neg h9, if_neg h10]

/-- The command a write transaction decodes to has the effect of its code and value (R68, R85). -/
theorem exec_of_decodeCV {s : State} {code v : Byte} {i : Instr} (h : decodeCV s.cfg code v = .ok i) :
    exec i s = onBus s (dispatch code v s) := by
  revert h
  unfold decodeCV dispatch
  by_cases h0 : code = 0
  · rw [if_pos h0]; intro h; cases h
  rw [if_neg h0]
  by_cases h1 : code = s.cfg.codeSpeed
  · rw [if_pos h1, if_pos h1]; intro h; cases h; rfl
  rw [if_neg h1, if_neg h1]
  by_cases h1 : code = s.cfg.codeLeft
  · rw [if_pos h1, if_pos h1]; intro h; cases h; rfl
  rw [if_neg h1, if_neg h1]
  by_cases h1 : code = s.cfg.codeRight
  · rw [if_pos h1, if_pos h1]; intro h; cases h; rfl
  rw [if_neg h1, if_neg h1]
  by_cases h1 : code = s.cfg.codeSettings
  · rw [if_pos h1, if_pos h1]; intro h; cases h; rfl
  rw [if_neg h1, if_neg h1]
  by_cases h1 : code = s.cfg.codeDirection
  · rw [if_pos h1, if_pos h1]; intro h; cases h; rfl
  rw [if_neg h1, if_neg h1]
  by_cases h1 : code = s.cfg.codeEnable
  · rw [if_pos h1, if_pos h1]; intro h; cases h; rfl
  rw [if_neg h1, if_neg h1]
  by_cases h1 : code = s.cfg.codePause
  · rw [if_pos h1, if_pos h1]; intro h; cases h; rfl
  rw [if_neg h1, if_neg h1]
  by_cases h1 : code = s.cfg.codeAccel
  · rw [if_pos h1, if_pos h1]; intro h; cases h; rfl
  rw [if_neg h1, if_neg h1]
  by_cases h1 : code = s.cfg.codeAccelRate
  · rw [if_pos h1, if_pos h1]; intro h; cases h; rfl
  rw [if_neg h1, if_neg h1]
  by_cases h1 : code = s.cfg.codeMinimumDuty
  · rw [if_pos h1, if_pos h1]; intro h; cases h; rfl
  rw [if_neg h1, if_neg h1]
  intro h; cases h

end Sys2Proof.Machine
end

