-- ==== Sys2Proof/Laws/Bus.lean ====
section
/-! SUPPORT. The arms of the bus front-end, one lemma each. -/

namespace Sys2Proof.Machine

theorem busEvent_error (a w : Bool) (rx : Byte) (s : State) :
    busEvent true a w rx s = { s with clockHeld := false, irqPending := false } := rfl

theorem busEvent_addressWrite (rx : Byte) (s : State) :
    busEvent false true true rx s = { s with pendingCommand := 0, clockHeld := false, irqPending := false } := rfl

theorem busEvent_addressRead (rx : Byte) (s : State) :
    busEvent false true false rx s = { s with clockHeld := true, irqPending := false } := rfl

theorem busEvent_dataWrite (rx : Byte) (s : State) :
    busEvent false false true rx s =
      { takeDataByte rx s.busEntry with clockHeld := false, irqPending := false } := rfl

theorem busEvent_dataRead (rx : Byte) (s : State) :
    busEvent false false false rx s = { sendSelected rx s.busEntry with clockHeld := false } := rfl

/-- The front-end's own fields given values. -/
def State.withFront (s : State) (pc : Byte) (ck irq : Bool) : State :=
  { s with pendingCommand := pc, clockHeld := ck, irqPending := irq }

@[simp] theorem State.withFront_cfg (s : State) (pc : Byte) (ck irq : Bool) : (s.withFront pc ck irq).cfg = s.cfg := rfl

/-- A command's effect commutes with everything of the front-end's state, which it neither reads nor writes. -/
theorem dispatch_withFront (s : State) (code v pc : Byte) (ck irq : Bool) :
    dispatch code v (s.withFront pc ck irq) = (dispatch code v s).withFront pc ck irq := by
  unfold dispatch
  rw [State.withFront_cfg]
  simp only [apply_ite (fun t : State => t.withFront pc ck irq)]
  rfl

/-- A command leaves the latched code, the clock and the interrupt alone. -/
theorem dispatch_pendingCommand (s : State) (code v : Byte) : (dispatch code v s).pendingCommand = s.pendingCommand := by
  rw [(dispatch_frame s code v).state]

theorem dispatch_busEntry (s : State) (code v : Byte) :
    dispatch code v s.busEntry = (dispatch code v s).withFront s.pendingCommand true true :=
  dispatch_withFront s code v s.pendingCommand true true

/-- A data byte with nothing latched is latched (R75). -/
theorem busEvent_latch {s : State} (rx : Byte) (h : s.pendingCommand = 0) :
    busEvent false false true rx s = { s with pendingCommand := rx, clockHeld := false, irqPending := false } := by
  have h' : s.busEntry.pendingCommand = 0 := h
  rw [busEvent_dataWrite, takeDataByte, if_pos h']
  rfl

/-- A data byte with a code latched is dispatched (R75). -/
theorem busEvent_dispatch {s : State} (rx : Byte) (h : s.pendingCommand ≠ 0) :
    busEvent false false true rx s =
      { dispatch s.pendingCommand rx s with pendingCommand := 0, clockHeld := false, irqPending := false } := by
  have h' : s.busEntry.pendingCommand ≠ 0 := h
  rw [busEvent_dataWrite, takeDataByte, if_neg h', dispatch_busEntry]
  rfl

/-- The byte selected does not depend on the clock or the interrupt. -/
theorem readValue_busEntry (sel : Byte) (s : State) : readValue sel s.busEntry = readValue sel s := rfl

/-- A data-read event with a readable selection sends the selected byte and waits (R76). -/
theorem busEvent_send {s : State} {rx b : Byte} (h : readValue (selectionOf rx) s = some b) :
    busEvent false false false rx s = { s with tx := b, txPending := true, clockHeld := false, irqPending := true } := by
  rw [busEvent_dataRead]
  simp only [sendSelected, readSelection, readValue_busEntry, h]
  rfl

/-- A data-read event with any other selection sends an unspecified byte and waits (R101). -/
theorem busEvent_sendFree {s : State} {rx : Byte} (h : readValue (selectionOf rx) s = none) :
    busEvent false false false rx s =
      { s with tx := s.freeByte, txPending := true, clockHeld := false, irqPending := true,
               freeCount := s.freeCount + 1 } := by
  rw [busEvent_dataRead]
  simp only [sendSelected, readSelection, readValue_busEntry, h]
  rfl

/-- A selection of none of the four readable codes selects no byte (R101). -/
theorem readValue_unknown (s : State) {sel : Byte} (h : sel ∉ s.cfg.readableCodes) : readValue sel s = none := by
  simp only [Config.readableCodes, List.mem_cons, List.not_mem_nil, or_false, not_or] at h
  obtain ⟨h1, h2, h3, h4⟩ := h
  unfold readValue
  rw [if_neg h2, if_neg h3, if_neg h4, if_neg h1]

end Sys2Proof.Machine
end

