-- ==== Sys2Proof/Laws/Decode.lean ====
section
/-! SUPPORT. The fields of the wire words, and what the decoder can answer. -/

namespace Sys2Proof

theorem cvWord_toNat (c v : Byte) : BitVec.toNat (w := 16) (c ++ v) = c.toNat * 256 + v.toNat := by
  have e : BitVec.toNat (w := 16) (c ++ v) = c.toNat <<< 8 ||| v.toNat := BitVec.toNat_append c v
  rw [e, ← Nat.shiftLeft_add_eq_or_of_lt v.isLt, Nat.shiftLeft_eq]

@[simp] theorem cvCode_append (c v : Byte) : cvCode (c ++ v) = c := by
  have := cvWord_toNat c v
  apply BitVec.eq_of_toNat_eq
  simp only [cvCode, BitVec.extractLsb'_toNat, Nat.shiftRight_eq_div_pow]
  omega

@[simp] theorem cvValue_append (c v : Byte) : cvValue (c ++ v) = v := by
  have := cvWord_toNat c v
  apply BitVec.eq_of_toNat_eq
  simp only [cvValue, BitVec.extractLsb'_toNat, Nat.shiftRight_eq_div_pow]
  omega

/-- A `CV` word is its two bytes (R56). -/
theorem cv_eta (b : BitVec 16) : cvCode b ++ cvValue b = b := by
  apply BitVec.eq_of_toNat_eq
  have := cvWord_toNat (cvCode b) (cvValue b)
  rw [this]
  simp only [cvCode, cvValue, BitVec.extractLsb'_toNat, Nat.shiftRight_eq_div_pow]
  omega

theorem selectionOf_rdByte {sel : Byte} (w : Bool) (h : sel ≤ 0x7F) : selectionOf (rdByte sel w) = sel := by
  revert h w sel; decide

theorem rdByte_bit0 (sel : Byte) (w : Bool) : (rdByte sel w).getLsbD 0 = w := by
  revert w sel; decide

/-- An `RD` byte is its selection and its bit 0 (R57). -/
theorem rdByte_eta (b : Byte) : rdByte (selectionOf b) (b.getLsbD 0) = b := by
  revert b; decide

/-- A write transaction decodes to no command, to the command whose word it is, or to an unknown one (R62, R63, R68). -/
theorem decodeCV_cases {P : Except DecodeError Instr → Prop} (cfg : Config) (code v : Byte)
    (zero : code = 0 → P (.error (.commandZero v)))
    (known : ∀ i, code ≠ 0 → code ∈ cfg.codes → encode cfg i = cvWord code v → P (.ok i))
    (unknown : code ≠ 0 → code ∉ cfg.codes → P (.error (.unknownCommand code v))) : P (decodeCV cfg code v) := by
  unfold decodeCV
  by_cases h0 : code = 0
  · rw [if_pos h0]; exact zero h0
  rw [if_neg h0]
  by_cases h1 : code = cfg.codeSpeed
  · rw [if_pos h1]
    exact known _ h0 (by simp [Config.codes, h1]) (by rw [h1]; rfl)
  rw [if_neg h1]
  by_cases h2 : code = cfg.codeLeft
  · rw [if_pos h2]
    exact known _ h0 (by simp [Config.codes, h2]) (by rw [h2]; rfl)
  rw [if_neg h2]
  by_cases h3 : code = cfg.codeRight
  · rw [if_pos h3]
    exact known _ h0 (by simp [Config.codes, h3]) (by rw [h3]; rfl)
  rw [if_neg h3]
  by_cases h4 : code = cfg.codeSettings
  · rw [if_pos h4]
    exact known _ h0 (by simp [Config.codes, h4]) (by rw [h4]; rfl)
  rw [if_neg h4]
  by_cases h5 : code = cfg.codeDirection
  · rw [if_pos h5]
    exact known _ h0 (by simp [Config.codes, h5]) (by rw [h5]; rfl)
  rw [if_neg h5]
  by_cases h6 : code = cfg.codeEnable
  · rw [if_pos h6]
    exact known _ h0 (by simp [Config.codes, h6]) (by rw [h6]; rfl)
  rw [if_neg h6]
  by_cases h7 : code = cfg.codePause
  · rw [if_pos h7]
    exact known _ h0 (by simp [Config.codes, h7]) (by rw [h7]; rfl)
  rw [if_neg h7]
  by_cases h8 : code = cfg.codeAccel
  · rw [if_pos h8]
    exact known _ h0 (by simp [Config.codes, h8]) (by rw [h8]; rfl)
  rw [if_neg h8]
  by_cases h9 : code = cfg.codeAccelRate
  · rw [if_pos h9]
    exact known _ h0 (by simp [Config.codes, h9]) (by rw [h9]; rfl)
  rw [if_neg h9]
  by_cases h10 : code = cfg.codeMinimumDuty
  · rw [if_pos h10]
    exact known _ h0 (by simp [Config.codes, h10]) (by rw [h10]; rfl)
  rw [if_neg h10]
  exact unknown h0 (by simp [Config.codes, h1, h2, h3, h4, h5, h6, h7, h8, h9, h10])

/-- The opening byte of a read decodes to the read whose word it is, or to none (R68, R101). -/
theorem decodeRD_cases {P : Except DecodeError Instr → Prop} (cfg : Config) (b : Byte)
    (known : ∀ i, encode cfg i = .rd b → selectionOf b ∈ cfg.readableCodes → P (.ok i))
    (unknown : selectionOf b ∉ cfg.readableCodes → P (.error (.unknownSelection (selectionOf b)))) :
    P (decodeRD cfg b) := by
  have key := rdByte_eta b
  unfold decodeRD
  by_cases h1 : selectionOf b = cfg.codeLeft
  · simp only [if_pos h1]
    exact known _ (by rw [encode, ← h1, key]) (by simp [Config.readableCodes, h1])
  by_cases h2 : selectionOf b = cfg.codeRight
  · simp only [if_neg h1, if_pos h2]
    exact known _ (by rw [encode, ← h2, key]) (by simp [Config.readableCodes, h2])
  by_cases h3 : selectionOf b = cfg.codeSettings
  · simp only [if_neg h1, if_neg h2, if_pos h3]
    exact known _ (by rw [encode, ← h3, key]) (by simp [Config.readableCodes, h3])
  by_cases h4 : selectionOf b = cfg.codeSpeed
  · simp only [if_neg h1, if_neg h2, if_neg h3, if_pos h4]
    exact known _ (by rw [encode, ← h4, key]) (by simp [Config.readableCodes, h4])
  simp only [if_neg h1, if_neg h2, if_neg h3, if_neg h4]
  exact unknown (by simp [Config.readableCodes, h1, h2, h3, h4])

@[simp] theorem decode_cvWord (cfg : Config) (code v : Byte) : decode cfg (cvWord code v) = decodeCV cfg code v := by
  simp [decode, cvWord]

/-- A bus event's word is its three flags and its byte (R59). -/
theorem decodeBE_beWord (o a w : Bool) (rx : Byte) : decodeBE (beWord o a w rx) = .busevent o a w rx := by
  unfold decodeBE
  congr 1 <;> revert o a w rx <;> decide

end Sys2Proof
end

