-- ==== Sys2Proof/Laws/Latches.lean ====
section
/-! SUPPORT. The pin latches: reading after a write, and the canonical form is kept. -/

namespace Sys2Proof.Machine

theorem latchGet_set_same (ls : Latches) (p : Pin) (l : Level) : latchGet (latchSet ls p l) p = l := by
  induction ls with
  | nil => simp [latchSet, latchGet]
  | cons x rest ih =>
    obtain ⟨q, m⟩ := x
    unfold latchSet
    split
    · simp [latchGet]
    · split
      · simp [latchGet]
      · next h => simp [latchGet, h, ih]

theorem latchGet_set_other (ls : Latches) {p q : Pin} (l : Level) (h : q ≠ p) :
    latchGet (latchSet ls p l) q = latchGet ls q := by
  induction ls with
  | nil => simp [latchSet, latchGet, h]
  | cons x rest ih =>
    obtain ⟨r, m⟩ := x
    unfold latchSet
    split
    · simp [latchGet, h]
    · split
      · next h' => subst h'; simp [latchGet, h]
      · simp [latchGet, ih]

/-- What a latch reads after a write to `p`. -/
theorem latchGet_set (ls : Latches) (p q : Pin) (l : Level) :
    latchGet (latchSet ls p l) q = if q = p then l else latchGet ls q := by
  by_cases h : q = p
  · subst h; simp [latchGet_set_same]
  · simp [h, latchGet_set_other ls l h]

/-- The keys after a write: the old ones and the written one. -/
theorem mem_latchSet_keys (ls : Latches) (p q : Pin) (l : Level) :
    q ∈ (latchSet ls p l).map Prod.fst ↔ q = p ∨ q ∈ ls.map Prod.fst := by
  induction ls with
  | nil => simp [latchSet]
  | cons x rest ih =>
    obtain ⟨r, m⟩ := x
    unfold latchSet
    split
    · simp
    · split
      · next h => subst h; simp
      · simp only [List.map_cons, List.mem_cons, ih]
        tauto

/-- Every write keeps the canonical form. -/
theorem latchSet_wf {ls : Latches} (h : Latches.wf ls) (p : Pin) (l : Level) : Latches.wf (latchSet ls p l) := by
  induction ls with
  | nil => simp [latchSet, Latches.wf]
  | cons x rest ih =>
    obtain ⟨r, m⟩ := x
    simp only [Latches.wf, List.map_cons, List.pairwise_cons] at h ih ⊢
    unfold latchSet
    split
    · next hlt =>
      simp only [List.map_cons, List.pairwise_cons, List.mem_cons]
      refine ⟨?_, h.1, h.2⟩
      rintro a (rfl | ha)
      · exact hlt
      · exact lt_trans hlt (h.1 a ha)
    · split
      · next heq => subst heq; simpa using h
      · next hlt hne =>
        simp only [List.map_cons, List.pairwise_cons]
        refine ⟨?_, ih h.2⟩
        intro a ha
        rcases (mem_latchSet_keys rest p a l).1 ha with rfl | ha
        · exact lt_of_le_of_ne (not_lt.1 hlt) (Ne.symm hne)
        · exact h.1 a ha

theorem latchSetAll_wf {ls : Latches} (h : Latches.wf ls) (ws : List (Pin × Level)) : Latches.wf (latchSetAll ls ws) := by
  induction ws generalizing ls with
  | nil => exact h
  | cons w rest ih => exact ih (latchSet_wf h w.1 w.2)

theorem latchSetAll_append (ls : Latches) (ws vs : List (Pin × Level)) :
    latchSetAll ls (ws ++ vs) = latchSetAll (latchSetAll ls ws) vs := by
  induction ws generalizing ls with
  | nil => rfl
  | cons w rest ih => exact ih (latchSet ls w.1 w.2)

/-- A pin that no write names keeps its level. -/
theorem latchGet_setAll_other (ls : Latches) (ws : List (Pin × Level)) (q : Pin) (h : ∀ w ∈ ws, w.1 ≠ q) :
    latchGet (latchSetAll ls ws) q = latchGet ls q := by
  induction ws generalizing ls with
  | nil => rfl
  | cons w rest ih =>
    have hw := h w (by simp)
    rw [latchSetAll, ih _ (fun v hv => h v (by simp [hv])), latchGet_set_other _ _ (Ne.symm hw)]

end Sys2Proof.Machine
end

