-- ==== Sys2Proof/Laws/PerInstr.lean ====
section
/-! SUPPORT. Statements about every operation as syntax, one lemma per constructor. -/

namespace Sys2Proof.Laws.TableBits

/-- An operation's row of spec/opcode_table.json: width, mask, match. -/
def row (i : Instr) : Nat × Nat × Nat :=
  match i with
  | .speed _ => (16, 0xFF00, 0x1000)
  | .left _ => (16, 0xFF00, 0x1100)
  | .right _ => (16, 0xFF00, 0x1200)
  | .settings _ => (16, 0xFF00, 0x1300)
  | .direction _ => (16, 0xFF00, 0x1400)
  | .enable _ => (16, 0xFF00, 0x1500)
  | .pause _ => (16, 0xFF00, 0x1600)
  | .accel _ => (16, 0xFF00, 0x1700)
  | .accelRate _ => (16, 0xFF00, 0x1800)
  | .minimumDuty _ => (16, 0xFF00, 0x1900)
  | .readLeft _ => (8, 0xFE, 0x22)
  | .readRight _ => (8, 0xFE, 0x24)
  | .readSettings _ => (8, 0xFE, 0x26)
  | .readSpeed _ => (8, 0xFE, 0x20)
  | .tick _ => (8, 0, 0)
  | .busevent _ _ _ _ => (11, 0, 0)

/-- The word encoded under the default configuration fits the row's width and has the row's fixed bits. -/
def Statement (i : Instr) : Prop :=
  tableWord (encode Config.default i) < 2 ^ (row i).1 ∧
    tableWord (encode Config.default i) &&& (row i).2.1 = (row i).2.2

theorem cvBits (code v : Byte) : (code ++ v).toNat &&& 0xFF00 = code.toNat * 256 := by
  have h : (code ++ v) &&& (0xFF00 : BitVec 16) = code ++ (0 : BitVec 8) := by
    ext i hi
    simp only [BitVec.getElem_and, BitVec.getElem_append]
    interval_cases i <;> simp
  have h2 := congrArg BitVec.toNat h
  rw [BitVec.toNat_and] at h2
  have h3 : ((0xFF00 : BitVec 16)).toNat = 0xFF00 := rfl
  rw [h3] at h2
  rw [h2, BitVec.toNat_append]
  simp [Nat.shiftLeft_eq]

theorem speed (v : Byte) : Statement (.speed v) := ⟨(0x10#8 ++ v).isLt, cvBits 0x10 v⟩
theorem left (v : Byte) : Statement (.left v) := ⟨(0x11#8 ++ v).isLt, cvBits 0x11 v⟩
theorem right (v : Byte) : Statement (.right v) := ⟨(0x12#8 ++ v).isLt, cvBits 0x12 v⟩
theorem settings (v : Byte) : Statement (.settings v) := ⟨(0x13#8 ++ v).isLt, cvBits 0x13 v⟩
theorem direction (v : Byte) : Statement (.direction v) := ⟨(0x14#8 ++ v).isLt, cvBits 0x14 v⟩
theorem enable (v : Byte) : Statement (.enable v) := ⟨(0x15#8 ++ v).isLt, cvBits 0x15 v⟩
theorem pause (v : Byte) : Statement (.pause v) := ⟨(0x16#8 ++ v).isLt, cvBits 0x16 v⟩
theorem accel (v : Byte) : Statement (.accel v) := ⟨(0x17#8 ++ v).isLt, cvBits 0x17 v⟩
theorem accelRate (v : Byte) : Statement (.accelRate v) := ⟨(0x18#8 ++ v).isLt, cvBits 0x18 v⟩
theorem minimumDuty (v : Byte) : Statement (.minimumDuty v) := ⟨(0x19#8 ++ v).isLt, cvBits 0x19 v⟩
theorem readLeft (w : Bool) : Statement (.readLeft w) := by cases w <;> exact ⟨by decide, by decide⟩
theorem readRight (w : Bool) : Statement (.readRight w) := by cases w <;> exact ⟨by decide, by decide⟩
theorem readSettings (w : Bool) : Statement (.readSettings w) := by cases w <;> exact ⟨by decide, by decide⟩
theorem readSpeed (w : Bool) : Statement (.readSpeed w) := by cases w <;> exact ⟨by decide, by decide⟩
theorem tick (cnt : Byte) : Statement (.tick cnt) := ⟨cnt.isLt, Nat.and_zero _⟩
theorem busevent (o a w : Bool) (rx : Byte) : Statement (.busevent o a w rx) :=
  ⟨(beWord o a w rx).isLt, Nat.and_zero _⟩

end Sys2Proof.Laws.TableBits
end

