-- ==== Sys2Proof/Laws/Ramp.lean ====
section
/-! SUPPORT. The acceleration engine: bounds of its arithmetic, and what one `RAMP` can do. -/

namespace Sys2Proof.Machine

open Sys2Proof.Safety

theorem bucket_pos (x : Nat) : 1 ≤ bucket x := by
  unfold bucket
  split_ifs <;> omega

theorem bucket_le (x : Nat) : bucket x ≤ 50 := by
  unfold bucket
  split_ifs <;> omega

/-- A growing Exponential step moves towards the target and does not cross it. -/
theorem expGrow_bounds (dist : ExpGrowDist) {d t : Nat} (m : Nat) (h : d < t) :
    d < expGrow dist d t m ∧ expGrow dist d t m ≤ t := by
  unfold expGrow
  have hb := fun x => bucket_pos x
  cases dist <;> simp only <;> split_ifs <;> first | omega | (have := hb (t - d); have := hb (d - m); omega)

/-- A decaying Exponential step moves towards the bound and does not cross it. -/
theorem expDecay_bounds {d b : Nat} (m : Nat) (h : b < d) : expDecay d b m < d ∧ b ≤ expDecay d b m := by
  unfold expDecay
  have := bucket_pos (d - m)
  omega

/-- The profile stays between the duty, the target and the floor. -/
theorem profileStep_le (dist : ExpGrowDist) (d t m : Nat) (p : Profile) (stop : Bool) :
    profileStep dist d t m p stop ≤ max d (max t m) := by
  have ht : t ≤ decayBound t m := le_max_left t m
  refine le_max_iff.2 ?_
  change _ ∨ _ ≤ decayBound t m
  cases p with
  | instant =>
    simp only [profileStep, instantStep]
    generalize decayBound t m = b at ht ⊢
    split_ifs <;> omega
  | linear =>
    simp only [profileStep]
    generalize decayBound t m = b at ht ⊢
    split_ifs <;> omega
  | exponential =>
    simp only [profileStep]
    generalize decayBound t m = b at ht ⊢
    split_ifs with h1 h2
    · have := expGrow_bounds dist m h1; omega
    · have := expDecay_bounds m h2; omega
    · omega

/-- `RampCore` never leaves the range of its operands (R146). -/
theorem rampCore_le (dist : ExpGrowDist) (d t m : Nat) (p : Profile) (stop : Bool) :
    rampCore dist d t m p stop ≤ max d (max t m) := by
  unfold rampCore
  split_ifs with h1 h2
  · have := profileStep_le dist m t m p stop; omega
  · omega
  · exact profileStep_le dist d t m p stop

theorem rampCore_lt_256 (dist : ExpGrowDist) (d t m : Byte) (p : Profile) (stop : Bool) :
    rampCore dist d.toNat t.toNat m.toNat p stop < 256 := by
  have := rampCore_le dist d.toNat t.toNat m.toNat p stop
  have := d.isLt; have := t.isLt; have := m.isLt
  omega

/-- The Accelerate arm's duty, as a number. -/
theorem accelerateDuty_toNat (cfg : Config) (p : Profile) (c : Channel) :
    (accelerateDuty cfg p c).toNat =
      rampCore cfg.expGrowDist c.duty.toNat (effectiveTarget c).toNat c.minimumDuty.toNat p false := by
  have := rampCore_lt_256 cfg.expGrowDist c.duty (effectiveTarget c) c.minimumDuty p false
  simp only [accelerateDuty, BitVec.toNat_ofNat]
  omega

/-- The Stop arm's duty, as a number. -/
theorem stopDuty_toNat (cfg : Config) (p : Profile) (c : Channel) :
    (stopDuty cfg p c).toNat = rampCore cfg.expGrowDist c.duty.toNat 0 c.minimumDuty.toNat p true := by
  have := rampCore_lt_256 cfg.expGrowDist c.duty 0 c.minimumDuty p true
  simp only [stopDuty, BitVec.toNat_ofNat, BitVec.ofNat_eq_ofNat] at this ⊢
  simpa using this

/-- A byte is decodable exactly when it decodes (R21). -/
theorem profileOf_isSome (cfg : Config) (a : Byte) : (profileOf cfg a).isSome = true ↔ Decodable cfg a := by
  unfold profileOf Decodable
  split_ifs <;> simp_all

/-- What one `RAMP` can do: a stop without a flip, a stop with a flip, an acceleration, or nothing. -/
theorem ramp_cases {cfg : Config} {gp : Bool} {c : Channel} {r : ChanStep} (h : ramp cfg gp c = some r) :
    (∃ p, profileOf cfg c.accelType = some p ∧ stopCondition gp c = true ∧
      ¬ (stopDuty cfg p c = 0 ∧ c.direction ≠ c.targetDirection) ∧
      r = { chan := { c with duty := stopDuty cfg p c }, writes := [] }) ∨
    (∃ p, profileOf cfg c.accelType = some p ∧ stopCondition gp c = true ∧
      stopDuty cfg p c = 0 ∧ c.direction ≠ c.targetDirection ∧
      r = { chan := { c with duty := 0, direction := c.targetDirection },
            writes := driveDirectionPins { c with direction := c.targetDirection } }) ∨
    (∃ p, profileOf cfg c.accelType = some p ∧ stopCondition gp c = false ∧ c.duty ≠ c.target ∧
      r = { chan := { c with duty := accelerateDuty cfg p c }, writes := [] }) ∨
    (stopCondition gp c = false ∧ c.duty = c.target ∧ r = { chan := c, writes := [] }) := by
  unfold ramp at h
  split_ifs at h with hs hd
  · obtain ⟨p, hp, hr⟩ := Option.map_eq_some_iff.1 h
    unfold stopArm at hr
    simp only at hr
    split_ifs at hr with hf
    · right; left
      refine ⟨p, hp, hs, hf.1, hf.2, ?_⟩
      rw [← hr, flipDirection, hf.1]
      rfl
    · left
      exact ⟨p, hp, hs, hf, hr.symm⟩
  · obtain ⟨p, hp, hr⟩ := Option.map_eq_some_iff.1 h
    right; right; left
    exact ⟨p, hp, by simpa using hs, hd, hr.symm⟩
  · right; right; right
    exact ⟨by simpa using hs, not_not.1 hd, (Option.some.inj h).symm⟩

/-- `RAMP` is refused exactly when an arm is selected with an undecodable profile (R145). -/
theorem ramp_isSome (cfg : Config) (gp : Bool) (c : Channel) :
    (ramp cfg gp c).isSome = true ↔
      ((stopCondition gp c = true ∨ c.duty ≠ c.target) → Decodable cfg c.accelType) := by
  rw [← profileOf_isSome]
  unfold ramp
  split_ifs with hs hd <;> simp_all

end Sys2Proof.Machine
end

