-- ==== Sys2Proof/Laws/Tick.lean ====
section
/-! SUPPORT. What a tick can do: on one channel, and on the state. -/

namespace Sys2Proof.Machine

open Sys2Proof.Safety

/-- The output decision: the flag follows the comparator, the refresh count may move, nothing else of the record. -/
theorem outputDecision_chan (cnt : Byte) (c : Channel) :
    (outputDecision cnt c).chan =
      { c with outputLevel := comparatorOn cnt c.duty
               servoRefreshCount := (outputDecision cnt c).chan.servoRefreshCount } := by
  unfold outputDecision
  split
  · unfold outputDC
    cases h : comparatorOn cnt c.duty <;> cases ho : c.outputLevel <;> simp <;> (cases c; simp_all)
  · unfold outputServo
    cases h : comparatorOn cnt c.duty <;> cases ho : c.outputLevel <;> simp <;> (cases c; simp_all)

@[simp] theorem outputDecision_outputLevel (cnt : Byte) (c : Channel) :
    (outputDecision cnt c).chan.outputLevel = comparatorOn cnt c.duty := by
  rw [outputDecision_chan]

/-- A DC channel's output decision: at most one write, when the comparator and the flag differ. -/
theorem outputDecision_dc {cnt : Byte} {c : Channel} (h : c.motorType = .dc) :
    (outputDecision cnt c).chan.servoRefreshCount = c.servoRefreshCount ∧
      (outputDecision cnt c).writes =
        if comparatorOn cnt c.duty = c.outputLevel then []
        else [(c.dutyPin, if comparatorOn cnt c.duty then .high else .low)] := by
  unfold outputDecision
  rw [h]
  unfold outputDC
  cases hk : comparatorOn cnt c.duty <;> cases ho : c.outputLevel <;> simp

/-- A Servo channel's output decision: the count moves when a window opens, and only a window that opens with count 0
writes the pin high. -/
theorem outputDecision_servo {cnt : Byte} {c : Channel} (h : c.motorType = .servo) :
    (outputDecision cnt c).chan.servoRefreshCount =
        (if comparatorOn cnt c.duty = true ∧ c.outputLevel = false then servoAdvance c.servoRefreshCount
         else c.servoRefreshCount) ∧
      (outputDecision cnt c).writes =
        if comparatorOn cnt c.duty = c.outputLevel then []
        else if comparatorOn cnt c.duty then (if c.servoRefreshCount = 0 then [(c.dutyPin, .high)] else [])
        else [(c.dutyPin, .low)] := by
  unfold outputDecision
  rw [h]
  unfold outputServo
  cases hk : comparatorOn cnt c.duty <;> cases ho : c.outputLevel <;> simp

/-- The divider below its threshold counts and does nothing else (R112). -/
theorem accelDivider_counting {cfg : Config} {gp : Bool} {c : Channel} (h : c.accelStepCount < c.accelRate) :
    accelDivider cfg gp c = some { chan := { c with accelStepCount := c.accelStepCount + 1 }, writes := [] } := by
  unfold accelDivider dividerReached
  have : ¬ c.accelRate ≤ c.accelStepCount := by rw [BitVec.not_le]; exact h
  simp [this]

/-- The divider at its threshold runs `RAMP` and starts again (R112). -/
theorem accelDivider_reached {cfg : Config} {gp : Bool} {c : Channel} (h : c.accelRate ≤ c.accelStepCount) :
    accelDivider cfg gp c = (ramp cfg gp c).map (fun r => { r with chan := { r.chan with accelStepCount := 0 } }) := by
  unfold accelDivider dividerReached
  simp [h]

/-- `RAMP` reads only the fields the output decision leaves alone. -/
theorem ramp_output (cfg : Config) (gp : Bool) (c : Channel) (ol : Bool) (sc : Byte) :
    ramp cfg gp { c with outputLevel := ol, servoRefreshCount := sc } =
      (ramp cfg gp c).map
        (fun r => { r with chan := { r.chan with outputLevel := ol, servoRefreshCount := sc } }) := by
  unfold ramp stopCondition
  simp only
  split_ifs with hs hd
  · cases hp : profileOf cfg c.accelType with
    | none => rfl
    | some p =>
      simp only [Option.map_some, stopArm, stopDuty, flipDirection, driveDirectionPins]
      split_ifs <;> rfl
  · cases hp : profileOf cfg c.accelType with
    | none => rfl
    | some p => rfl
  · rfl

/-- One channel's share of a tick: processed, forced low, or left alone (R105, R106). -/
theorem tickChannel_cases {cfg : Config} {ge gp : Bool} {cnt : Byte} {c : Channel} {r : ChanStep}
    (h : tickChannel cfg ge gp cnt c = some r) :
    (ge = true ∧ c.enabled = true ∧ ∃ q, accelDivider cfg gp (outputDecision cnt c).chan = some q ∧
      r = { q with writes := (outputDecision cnt c).writes ++ q.writes }) ∨
    (¬ (ge = true ∧ c.enabled = true) ∧ c.outputLevel = true ∧ r = forceLow c) ∨
    (¬ (ge = true ∧ c.enabled = true) ∧ c.outputLevel = false ∧ r = { chan := c, writes := [] }) := by
  unfold tickChannel at h
  split_ifs at h with hp ho
  · left
    obtain ⟨q, hq, hr⟩ := Option.map_eq_some_iff.1 h
    rw [Bool.and_eq_true] at hp
    exact ⟨hp.1, hp.2, q, hq, hr.symm⟩
  · right; left
    exact ⟨by simpa using hp, ho, (Option.some.inj h).symm⟩
  · right; right
    exact ⟨by simpa using hp, by simpa using ho, (Option.some.inj h).symm⟩

/-- A processed channel's share of a tick, below the divider's threshold. -/
theorem tickChannel_counting {cfg : Config} {gp : Bool} {cnt : Byte} {c : Channel} (he : c.enabled = true)
    (h : c.accelStepCount < c.accelRate) :
    tickChannel cfg true gp cnt c =
      some { chan := { (outputDecision cnt c).chan with accelStepCount := c.accelStepCount + 1 },
             writes := (outputDecision cnt c).writes } := by
  have hn : (outputDecision cnt c).chan.accelStepCount = c.accelStepCount := by rw [outputDecision_chan]
  have hd : (outputDecision cnt c).chan.accelStepCount < (outputDecision cnt c).chan.accelRate := by
    rw [outputDecision_chan]; exact h
  unfold tickChannel processChannel
  simp [he, accelDivider_counting hd, hn]

/-- A processed channel's share of a tick at the divider's threshold: the output decision, then `RAMP`. -/
theorem tickChannel_ramping {cfg : Config} {gp : Bool} {cnt : Byte} {c : Channel} (he : c.enabled = true)
    (h : c.accelRate ≤ c.accelStepCount) :
    tickChannel cfg true gp cnt c =
      (ramp cfg gp c).map (fun r =>
        { chan := { r.chan with outputLevel := comparatorOn cnt c.duty,
                                servoRefreshCount := (outputDecision cnt c).chan.servoRefreshCount,
                                accelStepCount := 0 },
          writes := (outputDecision cnt c).writes ++ r.writes }) := by
  have hc := outputDecision_chan cnt c
  unfold tickChannel processChannel
  simp only [he, Bool.and_self, if_true]
  rw [hc, accelDivider_reached (c := { c with
    outputLevel := comparatorOn cnt c.duty
    servoRefreshCount := (outputDecision cnt c).chan.servoRefreshCount }) h, ramp_output]
  cases ramp cfg gp c <;> rfl

/-- A tick gives a channel new values in five fields only (R33). -/
theorem tickChannel_frame {cfg : Config} {ge gp : Bool} {cnt : Byte} {c : Channel} {r : ChanStep}
    (h : tickChannel cfg ge gp cnt c = some r) :
    r.chan = { c with duty := r.chan.duty, direction := r.chan.direction, outputLevel := r.chan.outputLevel
                      servoRefreshCount := r.chan.servoRefreshCount, accelStepCount := r.chan.accelStepCount } := by
  by_cases hp : ge = true ∧ c.enabled = true
  · obtain ⟨rfl, he⟩ := hp
    by_cases hlt : c.accelStepCount < c.accelRate
    · rw [tickChannel_counting he hlt] at h
      cases h
      simp only
      rw [outputDecision_chan]
    · rw [tickChannel_ramping he (BitVec.not_lt.1 hlt)] at h
      obtain ⟨q, hq, rfl⟩ := Option.map_eq_some_iff.1 h
      rcases ramp_cases hq with ⟨p, -, -, -, rfl⟩ | ⟨p, -, -, -, -, rfl⟩ | ⟨p, -, -, -, rfl⟩ | ⟨-, -, rfl⟩ <;> rfl
  · rcases tickChannel_cases h with ⟨hg, he, -⟩ | ⟨-, -, rfl⟩ | ⟨-, -, rfl⟩
    · exact absurd ⟨hg, he⟩ hp
    · rfl
    · rfl

/-- One channel's share of a tick, as a step of the state. -/
theorem tickOne_eq {cnt : Byte} {i : ChIdx} {s : State} {r : ChanStep}
    (h : tickChannel s.cfg s.globalEnable s.globalPause cnt (s.chan i) = some r) :
    tickOne cnt i s = .next ((s.modChan i (fun _ => r.chan)).writePins r.writes) := by
  unfold tickOne
  rw [h]

theorem tickOne_none {cnt : Byte} {i : ChIdx} {s : State}
    (h : tickChannel s.cfg s.globalEnable s.globalPause cnt (s.chan i) = none) :
    tickOne cnt i s = .refused .undecodableProfile := by
  unfold tickOne
  rw [h]

/-- The state after a tick, from the four channels' shares. -/
def afterTick (s : State) (r : ChIdx → ChanStep) : State :=
  { s with ch := Quad.ofFn (fun i => (r i).chan) }.writePins
    ((r 0).writes ++ (r 1).writes ++ (r 2).writes ++ (r 3).writes)

/-- When every channel has its share, the tick answers the state made of them. -/
theorem tickAll_eq {cnt : Byte} {s : State} {r : ChIdx → ChanStep}
    (h : ∀ i, tickChannel s.cfg s.globalEnable s.globalPause cnt (s.chan i) = some (r i)) :
    tickAll cnt s = .next (afterTick s r) := by
  have other : ∀ (i j : ChIdx) (u : State) (f : Channel → Channel), j ≠ i → (u.modChan i f).chan j = u.chan j :=
    fun i j u f hij => by rw [State.chan_modChan, if_neg hij]
  unfold tickAll
  rw [tickOne_eq (h 0)]
  simp only [andThen]
  rw [tickOne_eq (r := r 1) (by simpa [other] using h 1)]
  simp only
  rw [tickOne_eq (r := r 2) (by simpa [other] using h 2)]
  simp only
  rw [tickOne_eq (r := r 3) (by simpa [other] using h 3)]
  refine congrArg Host.Outcome.next ?_
  simp only [afterTick, State.writePins_eq, State.modChan, latchSetAll_append, List.append_assoc]
  rfl

/-- What a tick can answer: a next state, made of the four channels' shares. -/
theorem tickAll_next {cnt : Byte} {s t : State} (h : tickAll cnt s = .next t) :
    ∃ r : ChIdx → ChanStep,
      (∀ i, tickChannel s.cfg s.globalEnable s.globalPause cnt (s.chan i) = some (r i)) ∧ t = afterTick s r := by
  have all : ∀ i, ∃ x, tickChannel s.cfg s.globalEnable s.globalPause cnt (s.chan i) = some x := by
    have other : ∀ (i j : ChIdx) (u : State) (f : Channel → Channel), j ≠ i → (u.modChan i f).chan j = u.chan j :=
      fun i j u f hij => by rw [State.chan_modChan, if_neg hij]
    unfold tickAll at h
    obtain ⟨s3, h3, hd⟩ := andThen_next.1 h
    obtain ⟨s2, h2, hc⟩ := andThen_next.1 h3
    obtain ⟨s1, ha, hb⟩ := andThen_next.1 h2
    cases k0 : tickChannel s.cfg s.globalEnable s.globalPause cnt (s.chan 0) with
    | none => rw [tickOne_none k0] at ha; cases ha
    | some r0 =>
      rw [tickOne_eq k0] at ha
      cases ha
      cases k1 : tickChannel s.cfg s.globalEnable s.globalPause cnt (s.chan 1) with
      | none => rw [tickOne_none (by simpa [other] using k1)] at hb; cases hb
      | some r1 =>
        rw [tickOne_eq (r := r1) (by simpa [other] using k1)] at hb
        cases hb
        cases k2 : tickChannel s.cfg s.globalEnable s.globalPause cnt (s.chan 2) with
        | none => rw [tickOne_none (by simpa [other] using k2)] at hc; cases hc
        | some r2 =>
          rw [tickOne_eq (r := r2) (by simpa [other] using k2)] at hc
          cases hc
          cases k3 : tickChannel s.cfg s.globalEnable s.globalPause cnt (s.chan 3) with
          | none => rw [tickOne_none (by simpa [other] using k3)] at hd; cases hd
          | some r3 =>
            intro i
            fin_cases i
            · exact ⟨r0, k0⟩
            · exact ⟨r1, k1⟩
            · exact ⟨r2, k2⟩
            · exact ⟨r3, k3⟩
  choose r hr using all
  refine ⟨r, hr, ?_⟩
  rw [tickAll_eq hr] at h
  exact (Host.Outcome.next.inj h).symm

@[simp] theorem afterTick_chan (s : State) (r : ChIdx → ChanStep) (i : ChIdx) : (afterTick s r).chan i = (r i).chan := by
  simp [afterTick, State.chan]

/-- Everything a tick leaves alone outside the channels, the latches and the trace. -/
theorem afterTick_frame (s : State) (r : ChIdx → ChanStep) :
    afterTick s r =
      { s with ch := (afterTick s r).ch, pins := (afterTick s r).pins, trace := (afterTick s r).trace } := by
  simp [afterTick, State.writePins_eq]

end Sys2Proof.Machine
end

