-- ==== Sys2Proof/Laws/Run.lean ====
section
/-! SUPPORT. Runs, one step at a time, one step, input by input, and runs of ticks. -/

namespace Sys2Proof.Machine

open Sys2Proof.Safety

theorem runSteps_zero (s : State) : runSteps 0 s = .next s := rfl

/-- A run is its first step and the run after it. -/
theorem runSteps_succ (k : Nat) (s : State) : runSteps (k + 1) s = andThen (step s) (runSteps k) := by
  cases hs : step s with
  | next t =>
    have h : Sys2Proof.core.step s = .next t := hs
    simp only [runSteps, Host.Core.run, h, andThen]
    rfl
  | fault f =>
    have h : Sys2Proof.core.step s = .fault f := hs
    simp only [runSteps, Host.Core.run, h, andThen]
    rfl
  | refused f =>
    have h : Sys2Proof.core.step s = .refused f := hs
    simp only [runSteps, Host.Core.run, h, andThen]
    rfl

/-- A step that answers a next state, at the head of a run. -/
theorem runSteps_next {s t : State} (k : Nat) (h : step s = .next t) : runSteps (k + 1) s = runSteps k t := by
  rw [runSteps_succ, h]; rfl

/-- A run in two parts. -/
theorem runSteps_add {s t : State} (j k : Nat) (h : runSteps j s = .next t) : runSteps (j + k) s = runSteps k t := by
  induction j generalizing s with
  | zero => cases h; rw [Nat.zero_add]
  | succ j ih =>
    rw [runSteps_succ] at h
    obtain ⟨u, hs, hu⟩ := andThen_next.1 h
    rw [Nat.succ_add, runSteps_next _ hs]
    exact ih hu

theorem step_nil {s : State} (h : s.inputs = []) : step s = idle s := by
  unfold step; rw [h]

/-- A step takes the environment's next event off the list and runs it (log 2). -/
theorem step_cons {s : State} {e : Input} {rest : List Input} (h : s.inputs = e :: rest) :
    step s = runInput e { s with inputs := rest } := by
  unfold step; rw [h]

theorem tickOne_inputs (cnt : Byte) (i : ChIdx) (s : State) (r : List Input) :
    tickOne cnt i { s with inputs := r } = andThen (tickOne cnt i s) (fun t => .next { t with inputs := r }) := by
  show (match tickChannel s.cfg s.globalEnable s.globalPause cnt (s.chan i) with | some _ => _ | none => _) = _
  unfold tickOne
  cases tickChannel s.cfg s.globalEnable s.globalPause cnt (s.chan i) with
  | none => rfl
  | some q =>
    simp only [andThen, State.writePins_eq]
    rfl

/-- A tick neither reads nor writes the environment's list. -/
theorem execTick_inputs (cnt : Byte) (s : State) (r : List Input) :
    exec (.tick cnt) { s with inputs := r } = andThen (exec (.tick cnt) s) (fun t => .next { t with inputs := r }) := by
  have all : tickAll cnt { s with inputs := r } = andThen (tickAll cnt s) (fun t => .next { t with inputs := r }) := by
    unfold tickAll
    rw [tickOne_inputs]
    cases tickOne cnt 0 s with
    | fault f => rfl
    | refused f => rfl
    | next s1 =>
      simp only [andThen]
      rw [tickOne_inputs]
      cases tickOne cnt 1 s1 with
      | fault f => rfl
      | refused f => rfl
      | next s2 =>
        simp only [andThen]
        rw [tickOne_inputs]
        cases tickOne cnt 2 s2 with
        | fault f => rfl
        | refused f => rfl
        | next s3 =>
          simp only [andThen]
          rw [tickOne_inputs]
          rfl
  show onTick { s with inputs := r } _ = andThen (onTick s _) _
  rw [all]
  unfold onTick guardCfg
  by_cases hw : s.cfg.wf = true <;> by_cases hp : s.txPending = true <;> simp [hw, hp, andThen]

/-- A tick as the environment's next event. -/
theorem step_tick (cnt : Byte) (s : State) (r : List Input) :
    step { s with inputs := .wire (.tk cnt) :: r } =
      andThen (exec (.tick cnt) s) (fun t => .next { t with inputs := r }) := by
  rw [step_cons rfl]
  exact execTick_inputs cnt s r

/-- A run of ticks, its last tick split off. -/
theorem runSteps_ticks_concat (cs : List Byte) (c : Byte) (s : State) :
    runSteps (cs.length + 1) { s with inputs := (cs ++ [c]).map (fun x => .wire (.tk x)) } =
      andThen (runSteps cs.length { s with inputs := cs.map (fun x => .wire (.tk x)) }) (exec (.tick c)) := by
  induction cs generalizing s with
  | nil =>
    rw [List.nil_append, List.map_cons, List.map_nil, List.length_nil, runSteps_succ, step_tick,
      ← execTick_inputs, runSteps_zero]
    show _ = exec (.tick c) { s with inputs := [] }
    cases exec (.tick c) { s with inputs := [] } <;> rfl
  | cons d ds ih =>
    rw [List.cons_append, List.map_cons, List.map_cons, List.length_cons, runSteps_succ, runSteps_succ, step_tick,
      step_tick]
    cases exec (.tick d) s with
    | next t => exact ih t
    | fault f => rfl
    | refused f => rfl

theorem afterTicks_zero (s : State) : afterTicks s 0 = .next { s with inputs := [] } := rfl

/-- One nominal tick more: it is `TICK` with the counter value `n` modulo 256. -/
theorem afterTicks_succ (s : State) (n : Nat) :
    afterTicks s (n + 1) = andThen (afterTicks s n) (exec (.tick (BitVec.ofNat 8 n))) := by
  have h := runSteps_ticks_concat ((List.range n).map (BitVec.ofNat 8)) (BitVec.ofNat 8 n) s
  simp only [List.length_map, List.length_range, List.map_append, List.map_map, List.map_cons, List.map_nil] at h
  unfold afterTicks nominalTicks
  rw [List.range_succ, List.map_append]
  exact h

end Sys2Proof.Machine
end

