-- ==== Sys2Proof/Tests/Slice0.lean ====
section
/-! SUPPORT. The model's own tests, and for every statement with hypotheses a state and operands that meet them. Expected
values: spec/30_encoding.md section 3 and spec/95_test_vectors.md (vectors V, T, M, F, A, B, E, G); a witness cites its
statement. -/

namespace Sys2Proof.Tests

open Sys2Proof.Machine Sys2Proof.Safety

/-! ### Ill-formed configurations, one for each check (R7) -/

theorem test_default_wf : Config.default.wf = true := by decide
theorem test_code_zero_refused :
    ({ Config.default with codeLeft := 0 } : Config).codesNonzero = false ∧
      ({ Config.default with codeLeft := 0 } : Config).wf = false := by decide
theorem test_equal_codes_refused :
    ({ Config.default with codeAccel := 0x16 } : Config).codesDistinct = false ∧
      ({ Config.default with codeAccel := 0x16 } : Config).wf = false := by decide
theorem test_wide_readable_code_refused :
    ({ Config.default with codeSpeed := 0x80 } : Config).readableFit = false ∧
      ({ Config.default with codeSpeed := 0x80 } : Config).wf = false := by decide
theorem test_wide_other_code_accepted : ({ Config.default with codeAccel := 0x80 } : Config).wf = true := by decide
theorem test_zero_mask_refused :
    ({ Config.default with rightMask := 0 } : Config).masksNonzero = false ∧
      ({ Config.default with rightMask := 0 } : Config).wf = false := by decide
theorem test_overlapping_settings_masks_refused :
    ({ Config.default with accelTypeMask := 3 } : Config).settingsMasksDisjoint = false ∧
      ({ Config.default with accelTypeMask := 3 } : Config).wf = false := by decide
theorem test_equal_profiles_refused :
    ({ Config.default with accelLinear := 2 } : Config).profilesDistinct = false ∧
      ({ Config.default with accelLinear := 2 } : Config).wf = false := by decide
theorem test_shared_pin_refused :
    ({ Config.default with pinRev := ⟨2, 5, 8, 0⟩ } : Config).pinsDistinct = false ∧
      ({ Config.default with pinRev := ⟨2, 5, 8, 0⟩ } : Config).wf = false := by decide
theorem test_one_channel_for_left_and_right_refused :
    ({ Config.default with rightIdx := 0 } : Config).idxDistinct = false ∧
      ({ Config.default with rightIdx := 0 } : Config).wf = false := by decide

/-! ### Words written out from the code map (30_encoding.md section 3) -/

theorem test_decode_speed : decodeTableWord 16 0b0001000011001000 = some (.speed 200) := by decide
theorem test_decode_left : decodeTableWord 16 0b0001000100001010 = some (.left 10) := by decide
theorem test_decode_right : decodeTableWord 16 0b0001001011111111 = some (.right 255) := by decide
theorem test_decode_settings : decodeTableWord 16 0b0001001100000011 = some (.settings 3) := by decide
theorem test_decode_direction : decodeTableWord 16 0b0001010000000110 = some (.direction 6) := by decide
theorem test_decode_enable : decodeTableWord 16 0b0001010100000100 = some (.enable 4) := by decide
theorem test_decode_pause : decodeTableWord 16 0b0001011000000010 = some (.pause 2) := by decide
theorem test_decode_accel : decodeTableWord 16 0b0001011100000001 = some (.accel 1) := by decide
theorem test_decode_accelRate : decodeTableWord 16 0b0001100000001001 = some (.accelRate 9) := by decide
theorem test_decode_minimumDuty : decodeTableWord 16 0b0001100100011110 = some (.minimumDuty 30) := by decide
theorem test_decode_readLeft : decodeTableWord 8 0b00100011 = some (.readLeft true) := by decide
theorem test_decode_readRight : decodeTableWord 8 0b00100101 = some (.readRight true) := by decide
theorem test_decode_readSettings : decodeTableWord 8 0b00100110 = some (.readSettings false) := by decide
theorem test_decode_readSpeed : decodeTableWord 8 0b00100001 = some (.readSpeed true) := by decide
theorem test_decode_tick : decodeTableWord 8 0b10000000 = some (.tick 128) := by decide
theorem test_decode_busevent : decodeTableWord 16 0b10100100011 = some (.busevent true false true 0x23) := by decide
theorem test_decode_unknown_code : decodeTableWord 16 0x7EFF = none ∧ decodeTableWord 16 0x1A01 = none := by decide

/-! ### States to test on -/

/-- The state after RESET with the engine on and `f` applied to channel 0, the left one. -/
def withLeft (f : Channel → Channel) : State := { State.reset.modChan 0 f with globalEnable := true }

/-- Channel 0 enabled, its duty and target at `d`: `RAMP` finds nothing to do (95_test_vectors.md section 2.2). -/
def steadyAt (d : Byte) : State := withLeft fun c => { c with enabled := true, duty := d, target := d }

/-- Channel 0 enabled, at duty `d` with target `t`, floor `m` and profile code `a`. -/
def rampAt (d t m a : Byte) : State :=
  withLeft fun c => { c with enabled := true, duty := d, target := t, minimumDuty := m, accelType := a }

/-- `rampAt` with a reversal asked for: the Stop arm. -/
def reverseAt (d m a : Byte) : State :=
  withLeft fun c => { c with enabled := true, duty := d, targetDirection := true, minimumDuty := m, accelType := a }

/-- The default configuration with a servo on channel 0. -/
def servoCfg : Config := { Config.default with motorType := ⟨.servo, .dc, .dc, .dc⟩ }

/-- A servo on channel 0, enabled, steady at duty `d` with refresh count `n` and the window closed. -/
def servoAt (d n : Byte) : State :=
  { (State.resetOf servoCfg).modChan 0
      (fun c => { c with enabled := true, duty := d, target := d, servoRefreshCount := n }) with globalEnable := true }

/-- A state with channel 0 on and pin 0 high, as a tick leaves it. -/
def onState (s : State) : State := (s.modChan 0 fun c => { c with outputLevel := true }).setPinLevel 0 .high

/-- What stands in the next state an operation answers, if it answers one. -/
def answer {α : Type} (r : Result) (f : State → α) : Option α :=
  match r with
  | .next t => some (f t)
  | _ => none

/-! ### One operation each -/

/-- V1 -/
theorem test_speed : answer (exec (.speed 200) State.reset) (fun t => t.ch.map (·.target)) = some ⟨200, 200, 0, 0⟩ := by
  decide
/-- V2, V3: the strict comparison -/
theorem test_speed_floor :
    answer (exec (.speed 29) (rampAt 0 0 30 0)) (fun t => (t.chan 0).target) = some 0 ∧
      answer (exec (.speed 30) (rampAt 0 0 30 0)) (fun t => (t.chan 0).target) = some 30 := by decide
/-- Scenario A, and V4's other channels -/
theorem test_left : answer (exec (.left 10) (rampAt 0 7 30 0)) (fun t => t.ch.map (·.target)) = some ⟨0, 0, 0, 0⟩ := by
  decide
/-- V5 -/
theorem test_right :
    answer (exec (.right 254) (State.reset.modAll fun c => { c with minimumDuty := 255 })) (fun t => (t.chan 1).target) =
        some 0 ∧
      answer (exec (.right 255) (State.reset.modAll fun c => { c with minimumDuty := 255 }))
        (fun t => t.ch.map (·.target)) = some ⟨0, 255, 0, 0⟩ := by decide
/-- V9 -/
theorem test_settings :
    answer (exec (.settings 2) State.reset) (fun t => (t.globalEnable, t.settings, t.ch.map (·.accelType))) =
      some (false, 2, ⟨2, 2, 2, 2⟩) := by decide
/-- V10, V11: the ignored bits -/
theorem test_settings_ignored_bits :
    answer (exec (.settings 0xFF) State.reset) (fun t => (t.globalEnable, t.settings)) = some (true, 3) ∧
      answer (exec (.settings 0xFC) State.reset) (fun t => (t.globalEnable, t.settings)) = some (false, 0) := by decide
/-- V12, V13 -/
theorem test_direction :
    answer (exec (.direction 2) State.reset) (fun t => t.ch.map (·.targetDirection)) = some ⟨true, false, false, false⟩ ∧
      answer (exec (.direction 4) State.reset) (fun t => (t.ch.map (·.targetDirection), (t.chan 1).direction)) =
        some (⟨false, true, false, false⟩, false) := by decide
/-- V17, V18 -/
theorem test_enable :
    answer (exec (.enable 1) State.reset) (fun t => (t.globalEnable, t.ch.map (·.enabled))) =
        some (false, ⟨true, true, false, false⟩) ∧
      answer (exec (.enable 2) State.reset) (fun t => (t.globalEnable, t.ch.map (·.enabled))) =
        some (true, ⟨false, true, false, false⟩) := by decide
/-- V24, V25 -/
theorem test_pause :
    answer (exec (.pause 1) State.reset) (fun t => (t.globalPause, t.ch.map (·.paused))) =
        some (true, ⟨true, true, false, false⟩) ∧
      answer (exec (.pause 2) State.reset) (fun t => (t.globalPause, t.ch.map (·.paused))) =
        some (false, ⟨false, true, false, false⟩) := by decide
/-- V27 -/
theorem test_accel :
    answer (exec (.accel 7) State.reset) (fun t => (t.settings, t.ch.map (·.accelType))) = some (0, ⟨7, 7, 7, 7⟩) := by
  decide
/-- V28 -/
theorem test_accelRate :
    answer (exec (.accelRate 9) State.reset) (fun t => t.ch.map (fun c => (c.accelRate, c.accelStepCount))) =
      some ⟨(9, 0), (9, 0), (9, 0), (9, 0)⟩ := by decide
/-- V6: no re-clamp -/
theorem test_minimumDuty :
    answer (exec (.minimumDuty 30) (rampAt 5 10 0 0)) (fun t => ((t.chan 0).target, (t.chan 0).duty, t.ch.map (·.minimumDuty))) =
      some (10, 5, ⟨30, 30, 30, 30⟩) := by decide
/-- V32 -/
theorem test_readLeft : answer (exec (.readLeft true) (rampAt 57 90 0 0)) (fun t => (t.tx, t.txPending)) = some (57, false) := by
  decide
/-- Scenario D -/
theorem test_readRight :
    answer (exec (.readRight true) (State.reset.modChan 1 fun c => { c with duty := 120, target := 200 })) (·.tx) = some 120 := by
  decide
/-- V34's last read -/
theorem test_readSettings : answer (exec (.readSettings false) { State.reset with settings := 3 }) (·.tx) = some 3 := by decide
/-- V35 -/
theorem test_readSpeed :
    answer (exec (.readSpeed true) ((rampAt 40 0 0 0).modChan 1 fun c => { c with duty := 90 })) (·.tx) = some 40 := by decide
/-- T1, T3 -/
theorem test_tick_comparator :
    answer (exec (.tick 0) (steadyAt 128)) (fun t => (t.trace, (t.chan 0).outputLevel)) = some ([(0, .high)], true) ∧
      answer (exec (.tick 128) (onState (steadyAt 128))) (fun t => (t.trace, (t.chan 0).outputLevel)) =
        some ([(0, .high), (0, .low)], false) := by decide
/-- M7: the snap to 0 and the flip in one step; M14: refused -/
theorem test_tick_ramp :
    answer (exec (.tick 0) (reverseAt 30 30 1)) (fun t => ((t.chan 0).duty, (t.chan 0).direction, t.trace.drop 1)) =
        some (0, true, [(1, .low), (2, .high)]) ∧
      answer (exec (.tick 0) (rampAt 0 10 0 7)) (·.trace) = none := by decide
/-- F3, F6 -/
theorem test_busevent_write :
    answer (exec (.busevent false false true 0x80) { State.reset with pendingCommand := 0x11 })
        (fun t => ((t.chan 0).target, t.pendingCommand, t.clockHeld)) = some (128, 0, false) ∧
      answer (exec (.busevent true false true 0x80) { State.reset with pendingCommand := 0x11 })
        (fun t => ((t.chan 0).target, t.pendingCommand, t.clockHeld)) = some (0, 0x11, false) := by decide
/-- F10, F11 -/
theorem test_busevent_read :
    answer (exec (.busevent false false false 0x22) (rampAt 57 0 0 0)) (fun t => (t.tx, t.txPending, t.clockHeld)) =
        some (57, true, false) ∧
      answer (exec (.busevent false true false 0x23) State.reset) (fun t => (t.clockHeld, t.irqPending)) =
        some (true, false) := by decide

/-- A5, A7, B6, B7, E3, E15, E24 -/
theorem test_rampCore :
    rampCore .toTarget 0 200 30 .instant false = 200 ∧ rampCore .toTarget 200 0 30 .instant true = 30 ∧
      rampCore .toTarget 29 30 30 .linear false = 30 ∧ rampCore .toTarget 31 0 30 .linear false = 30 ∧
      rampCore .toTarget 200 0 0 .exponential true = 175 ∧ rampCore .toTarget 110 100 0 .exponential false = 100 ∧
      rampCore .toTarget 255 40 30 .exponential false = 205 := by decide
/-- G5, G15, G17 under both readings -/
theorem test_growth :
    rampCore .toTarget 55 255 0 .exponential false = 80 ∧ rampCore .fromFloor 55 255 0 .exponential false = 60 ∧
      rampCore .toTarget 201 255 0 .exponential false = 206 ∧ rampCore .fromFloor 201 255 0 .exponential false = 255 ∧
      rampCore .toTarget 0 255 30 .exponential false = 255 ∧ rampCore .fromFloor 0 255 30 .exponential false = 31 := by
  decide
/-- Section 2.3: frame 0's first tick pulses, frame 19's closes the cycle without a pulse. -/
theorem test_outputServo :
    (outputServo 0 ((servoAt 3 0).chan 0)).writes = [(0, .high)] ∧
      (outputServo 0 ((servoAt 3 0).chan 0)).chan.servoRefreshCount = 1 ∧
      (outputServo 0 ((servoAt 3 19).chan 0)).writes = [] ∧
      (outputServo 0 ((servoAt 3 19).chan 0)).chan.servoRefreshCount = 0 := by decide

/-! ### The invariant, on concrete states -/

/-- The parts of `ChannelInv`, as one decidable proposition. -/
abbrev ChannelParts (s : State) (i : ChIdx) : Prop :=
  (s.chan i).dutyPin = s.cfg.pinDuty.get i ∧ (s.chan i).forwardPin = s.cfg.pinFwd.get i ∧
    (s.chan i).reversePin = s.cfg.pinRev.get i ∧ (s.chan i).motorType = s.cfg.motorType.get i ∧
    ((s.chan i).motorType = .dc → (s.pin (s.chan i).dutyPin = .high ↔ (s.chan i).outputLevel = true)) ∧
    ((s.chan i).motorType = .servo → s.pin (s.chan i).dutyPin = .high → (s.chan i).outputLevel = true) ∧
    (s.chan i).servoRefreshCount.toNat ≤ 19 ∧ ((s.chan i).motorType = .dc → (s.chan i).servoRefreshCount = 0) ∧
    s.pin (s.chan i).forwardPin = (if (s.chan i).direction then .low else .high) ∧
    s.pin (s.chan i).reversePin = (if (s.chan i).direction then .high else .low)

/-- The parts of `Inv`, as one decidable proposition. -/
abbrev InvParts (s : State) : Prop :=
  s.cfg.wf = true ∧ (∀ i, ChannelParts s i) ∧ Latches.wf s.pins ∧
    s.pins = latchSetAll (latchSetAll [] (pinsAtReset s.cfg)) s.trace ∧ (∀ w ∈ s.trace, w.1 ∈ s.cfg.allPins) ∧
    s.settings &&& ~~~(s.cfg.enableMask ||| s.cfg.accelTypeMask) = 0 ∧ s.irqPending = s.txPending ∧
    ¬ (s.txPending = true ∧ s.clockHeld = true)

theorem inv_of_parts {s : State} (h : InvParts s) : Inv s := by
  obtain ⟨h1, h2, h3, h4, h5, h6, h7, h8⟩ := h
  refine ⟨h1, fun i => ?_, h3, h4, h5, h6, h7, h8⟩
  obtain ⟨c1, c2, c3, c4, c5, c6, c7, c8, c9, c10⟩ := h2 i
  exact ⟨c1, c2, c3, c4, c5, c6, c7, c8, c9, c10⟩

/-- Before the first tick every duty is what it was. -/
theorem keepsDuty_zero (s : State) (i : ChIdx) : KeepsDuty s i 0 := by
  intro k u hk h
  obtain rfl : k = 0 := by omega
  cases h
  rfl

theorem inv_steady : Inv (steadyAt 128) := inv_of_parts (by decide)
theorem inv_on : Inv (onState (steadyAt 128)) := inv_of_parts (by decide)
theorem inv_reverse : Inv (reverseAt 1 0 1) := inv_of_parts (by decide)
theorem inv_servo : Inv (servoAt 3 0) := inv_of_parts (by decide)

/-! ### Every statement's hypotheses are met together: one witness each, and one per clause where clauses differ -/

theorem witness_DecodeEncodeRoundTrip : Config.default.wf = true := by decide
theorem witness_DecodedWordIsTheEncoding :
    decode Config.default (.cv 0x11C8) = .ok (.left 200) ∧ decode Config.default (.rd 0x27) = .ok (.readSettings true) ∧
      decode Config.default (.be 0x380) = .ok (.busevent false true true 0x80) := ⟨rfl, rfl, rfl⟩
theorem witness_StepRunsTheDecodedOperation :
    ({ State.reset with inputs := [.wire (.cv 0x11C8)] } : State).inputs = .wire (.cv 0x11C8) :: [] ∧
      decode ({ State.reset with inputs := [.wire (.cv 0x11C8)] } : State).cfg (.cv 0x11C8) = .ok (.left 200) := ⟨rfl, rfl⟩
/-- For the statements whose one hypothesis is `BusReady`: the ten commands, the four reads, and the bus events. -/
theorem witness_BusReady : BusReady State.reset ∧ BusReady (onState (steadyAt 128)) := by decide
/-- The clauses of the target commands: below the floor and at it, on the left, the right and another channel. -/
theorem witness_SpeedWritesBothTargets :
    BusReady (rampAt 0 0 30 0) ∧ (29 : Byte).toNat < ((rampAt 0 0 30 0).chan 0).minimumDuty.toNat ∧
      ¬ (30 : Byte).toNat < ((rampAt 0 0 30 0).chan 0).minimumDuty.toNat ∧ (0 : ChIdx) = State.reset.cfg.leftIdx ∧
      (1 : ChIdx) = State.reset.cfg.rightIdx ∧ (2 : ChIdx) ≠ State.reset.cfg.leftIdx ∧
      (2 : ChIdx) ≠ State.reset.cfg.rightIdx := by decide
theorem witness_UnknownCommandChangesNothing :
    BusReady State.reset ∧ (0x7E : Byte) ≠ 0 ∧ (0x7E : Byte) ∉ State.reset.cfg.codes ∧
      (0x1A : Byte) ∉ State.reset.cfg.codes ∧
      ({ State.reset with inputs := [.wire (cvWord 0x7E 0xFF)] } : State).inputs = .wire (cvWord 0x7E 0xFF) :: [] := by
  decide
theorem witness_ZeroCodePairLatchesItsValue :
    BusReady { State.reset with inputs := [.wire (cvWord 0 0x11)] } ∧
      ({ State.reset with inputs := [.wire (cvWord 0 0x11)] } : State).inputs = .wire (cvWord 0 0x11) :: [] := by decide
theorem witness_CommandsAreIdempotent :
    isCommand (.enable 4) = true ∧ ∃ t, exec (.enable 4) State.reset = .next t := ⟨rfl, _, rfl⟩
/-- A command, a bus event and a tick that complete. -/
theorem witness_TwoAgentsWriteDisjointFields :
    (isCommand (.speed 200) = true ∧ ∃ t, exec (.speed 200) State.reset = .next t) ∧
      (isTick (.busevent false false true 0x11) = false ∧
        ∃ t, exec (.busevent false false true 0x11) State.reset = .next t) ∧
      (isTick (.tick 0) = true ∧ ∃ t, exec (.tick 0) (steadyAt 128) = .next t) :=
  ⟨⟨rfl, _, rfl⟩, ⟨rfl, _, rfl⟩, ⟨rfl, _, rfl⟩⟩
theorem witness_UnknownReadWritesOnlyTheByte :
    BusReady { State.reset with inputs := [.wire (.rd 0x29)] } ∧ selectionOf 0x29 ∉ State.reset.cfg.readableCodes ∧
      ({ State.reset with inputs := [.wire (.rd 0x29)] } : State).inputs = .wire (.rd 0x29) :: [] := by decide
/-- Nothing latched, a command latched, an unknown code latched. -/
theorem witness_BusDataWriteLatchesOrDispatches :
    (BusReady State.reset ∧ State.reset.pendingCommand = 0) ∧
      (BusReady { State.reset with pendingCommand := 0x11 } ∧
        decode State.reset.cfg (cvWord 0x11 0x80) = .ok (.left 0x80)) ∧
      (BusReady { State.reset with pendingCommand := 0x7E } ∧ (0x7E : Byte) ≠ 0 ∧ (0x7E : Byte) ∉ State.reset.cfg.codes) :=
  ⟨by decide, ⟨by decide, rfl⟩, by decide⟩
/-- The four readable selections; bit 0 of the opening byte is either value. -/
theorem witness_BusDataReadSendsTheSelectedByte :
    BusReady State.reset ∧ selectionOf 0x23 = State.reset.cfg.codeLeft ∧ selectionOf 0x24 = State.reset.cfg.codeRight ∧
      selectionOf 0x27 = State.reset.cfg.codeSettings ∧ selectionOf 0x20 = State.reset.cfg.codeSpeed := by decide
/-- A bus word (here an unknown code), a later byte of a read, and a tick. -/
theorem witness_HeldClockStopsTheBusAgentOnly :
    State.reset.cfg.wf = true ∧ ({ steadyAt 128 with clockHeld := true } : State).txPending = false ∧
      ({ steadyAt 128 with clockHeld := true } : State).clockHeld = true ∧
      TickDecodable { steadyAt 128 with clockHeld := true } ∧ isTick (.readLeft true) = false ∧
      ({ steadyAt 128 with clockHeld := true, inputs := [.wire (cvWord 0x7E 0xFF)] } : State).inputs =
        .wire (cvWord 0x7E 0xFF) :: [] ∧ (∀ cnt, cvWord 0x7E 0xFF ≠ .tk cnt) ∧
      ({ steadyAt 128 with clockHeld := true, inputs := [.readMore] } : State).inputs = .readMore :: [] :=
  ⟨by decide, rfl, rfl, by decide, rfl, rfl, fun _ => nofun, rfl⟩
/-- A wire word, a later byte of a read, and the end of the wait. -/
theorem witness_ReadWaitStopsBothAgents :
    State.reset.cfg.wf = true ∧ ({ State.reset with txPending := true, irqPending := true } : State).txPending = true ∧
      ({ State.reset with txPending := true, inputs := [.wire (.rd 0x29)] } : State).inputs = .wire (.rd 0x29) :: [] ∧
      ({ State.reset with txPending := true, inputs := [.readMore] } : State).inputs = .readMore :: [] ∧
      ({ State.reset with txPending := true, inputs := [.byteTaken] } : State).inputs = .byteTaken :: [] := by decide
theorem witness_LaterReadByteWritesOnlyTheByte :
    BusReady { State.reset with inputs := [.readMore] } ∧
      ({ State.reset with inputs := [.readMore] } : State).inputs = .readMore :: [] := by decide
/-- A command's code and an unknown one. -/
theorem witness_BusTransactionIsTheCommand :
    BusReady State.reset ∧ (0x11 : Byte) ≠ 0 ∧ decode State.reset.cfg (cvWord 0x11 0x80) = .ok (.left 0x80) ∧
      (0x7E : Byte) ≠ 0 ∧ (0x7E : Byte) ∉ State.reset.cfg.codes := ⟨by decide, by decide, rfl, by decide⟩
theorem witness_BusReadIsTheReadBack :
    BusReady State.reset ∧ decode State.reset.cfg (.rd 0x23) = .ok (.readLeft true) := ⟨by decide, rfl⟩
theorem witness_IllFormedConfigurationIsRefused :
    ({ State.reset with cfg := { Config.default with codeLeft := 0 } } : State).cfg.wf = false := by decide
/-- An arm with a decodable profile; nothing to do with an undecodable one (M1); a divider not due with one. -/
theorem witness_TickCompletes :
    (TickReady (rampAt 0 200 0 1) ∧ TickDecodable (rampAt 0 200 0 1) ∧ RampDue (rampAt 0 200 0 1) 0) ∧
      (TickReady (rampAt 100 100 0 7) ∧ TickDecodable (rampAt 100 100 0 7)) ∧
      TickDecodable ((rampAt 0 10 0 7).modChan 0 fun c => { c with accelRate := 1 }) :=
  ⟨⟨by decide, by decide, by decide⟩, ⟨by decide, by decide⟩, by decide⟩
/-- M14: the Accelerate arm; M15: the Stop arm. -/
theorem witness_UndecodableProfileIsRefused :
    (TickReady (rampAt 0 10 0 7) ∧ ¬ TickDecodable (rampAt 0 10 0 7)) ∧
      (TickReady (reverseAt 10 0 7) ∧ ¬ TickDecodable (reverseAt 10 0 7)) := by decide
/-- T1 at counter 127 and T3 at 128: the last tick below the duty and the first at it. -/
theorem witness_DcPinFollowsTheComparator :
    (Inv (steadyAt 128) ∧ (∃ t, exec (.tick 127) (steadyAt 128) = .next t) ∧ Processed (steadyAt 128) 0 ∧
        ((steadyAt 128).chan 0).motorType = .dc) ∧
      (Inv (onState (steadyAt 128)) ∧ (∃ t, exec (.tick 128) (onState (steadyAt 128)) = .next t) ∧
        Processed (onState (steadyAt 128)) 0 ∧ ((onState (steadyAt 128)).chan 0).motorType = .dc) :=
  ⟨⟨inv_steady, ⟨_, rfl⟩, by decide, by decide⟩, ⟨inv_on, ⟨_, rfl⟩, by decide, by decide⟩⟩
/-- A window that opens with count 0 and one with count 19; one that closes. -/
theorem witness_ServoWindowCountsAndPulses :
    (Inv (servoAt 3 0) ∧ (∃ t, exec (.tick 2) (servoAt 3 0) = .next t) ∧ Processed (servoAt 3 0) 0 ∧
        ((servoAt 3 0).chan 0).motorType = .servo) ∧
      (Inv (servoAt 3 19) ∧ ∃ t, exec (.tick 0) (servoAt 3 19) = .next t) ∧
      (Inv (onState (servoAt 3 1)) ∧ ∃ t, exec (.tick 3) (onState (servoAt 3 1)) = .next t) :=
  ⟨⟨inv_servo, ⟨_, rfl⟩, by decide, by decide⟩, ⟨inv_of_parts (by decide), _, rfl⟩, ⟨inv_of_parts (by decide), _, rfl⟩⟩
/-- T10 and T12: marked on and not. -/
theorem witness_UnprocessedChannelIsForcedLowOnce :
    (Inv ({ onState (steadyAt 128) with globalEnable := false } : State) ∧
        (∃ t, exec (.tick 10) { onState (steadyAt 128) with globalEnable := false } = .next t) ∧
        ¬ Processed { onState (steadyAt 128) with globalEnable := false } 0) ∧
      (Inv (steadyAt 128) ∧ (∃ t, exec (.tick 10) (steadyAt 128) = .next t) ∧ ¬ Processed (steadyAt 128) 2) :=
  ⟨⟨inv_of_parts (by decide), ⟨_, rfl⟩, by decide⟩, ⟨inv_steady, ⟨_, rfl⟩, by decide⟩⟩
/-- Below the threshold and at it. -/
theorem witness_DividerCountsToItsThreshold :
    ((∃ t, exec (.tick 0) ((steadyAt 128).modChan 0 fun c => { c with accelRate := 1 }) = .next t) ∧
        Processed ((steadyAt 128).modChan 0 fun c => { c with accelRate := 1 }) 0) ∧
      ((∃ t, exec (.tick 0) ((steadyAt 128).modChan 0 fun c => { c with accelRate := 1, accelStepCount := 1 }) = .next t) ∧
        Processed ((steadyAt 128).modChan 0 fun c => { c with accelRate := 1, accelStepCount := 1 }) 0) :=
  ⟨⟨⟨_, rfl⟩, by decide⟩, ⟨⟨_, rfl⟩, by decide⟩⟩
theorem witness_TickWritesPinsInOrder :
    ∃ t, exec (.tick 0) (reverseAt 1 0 1) = .next t ∧ t.trace = [(0, .high), (1, .low), (2, .high)] := ⟨_, rfl, by decide⟩
/-- M6, which flips, and one step before it, which does not. -/
theorem witness_StopArmRampsDownAndFlips :
    (Inv (reverseAt 1 0 1) ∧ (∃ t, exec (.tick 0) (reverseAt 1 0 1) = .next t) ∧ RampDue (reverseAt 1 0 1) 0 ∧
        Stopping (reverseAt 1 0 1) 0) ∧
      (Inv (reverseAt 2 0 1) ∧ (∃ t, exec (.tick 0) (reverseAt 2 0 1) = .next t) ∧ RampDue (reverseAt 2 0 1) 0 ∧
        Stopping (reverseAt 2 0 1) 0) :=
  ⟨⟨inv_reverse, ⟨_, rfl⟩, by decide, by decide⟩, ⟨inv_of_parts (by decide), ⟨_, rfl⟩, by decide, by decide⟩⟩
/-- M13, a target below the floor, and a target at the floor. -/
theorem witness_AccelerateArmRampsToTheEffectiveTarget :
    (Inv (rampAt 50 29 30 1) ∧ (∃ t, exec (.tick 0) (rampAt 50 29 30 1) = .next t) ∧ RampDue (rampAt 50 29 30 1) 0 ∧
        ¬ Stopping (rampAt 50 29 30 1) 0 ∧ ((rampAt 50 29 30 1).chan 0).duty ≠ ((rampAt 50 29 30 1).chan 0).target) ∧
      (Inv (rampAt 50 30 30 1) ∧ (∃ t, exec (.tick 0) (rampAt 50 30 30 1) = .next t) ∧ RampDue (rampAt 50 30 30 1) 0 ∧
        ¬ Stopping (rampAt 50 30 30 1) 0 ∧ ((rampAt 50 30 30 1).chan 0).duty ≠ ((rampAt 50 30 30 1).chan 0).target) :=
  ⟨⟨inv_of_parts (by decide), ⟨_, rfl⟩, by decide, by decide, by decide⟩,
    ⟨inv_of_parts (by decide), ⟨_, rfl⟩, by decide, by decide, by decide⟩⟩
/-- M1, with profile code 7. -/
theorem witness_RampAtTargetWritesNothing :
    Inv (rampAt 100 100 0 7) ∧ (∃ t, exec (.tick 200) (rampAt 100 100 0 7) = .next t) ∧ RampDue (rampAt 100 100 0 7) 0 ∧
      ¬ Stopping (rampAt 100 100 0 7) 0 ∧ ((rampAt 100 100 0 7).chan 0).duty = ((rampAt 100 100 0 7).chan 0).target :=
  ⟨inv_of_parts (by decide), ⟨_, rfl⟩, by decide, by decide, by decide⟩
theorem witness_FloorSnapUpThenProfile : 29 < 30 ∧ 30 ≤ 30 := by decide
theorem witness_FloorSnapDownEndsTheStep : 30 ≤ 30 ∧ 29 < 30 := by decide
/-- The target 0, and a target at the floor. -/
theorem witness_InstantProfileSteps : ((0 : Nat) = 0 ∨ 30 ≤ 0) ∧ ((30 : Nat) = 0 ∨ 30 ≤ 30) := by decide
/-- The five branches of the statement, at their boundaries: up through the floor, down through it, up, down, at rest. -/
theorem witness_LinearProfileStepsByOne :
    (29 < 30 ∧ 30 ≤ 31) ∧ (30 ≤ 30 ∧ 0 < 30) ∧ (30 : Nat) < 31 ∧ max 30 30 < 31 ∧ ((31 : Nat) = 0 ∨ 30 ≤ 31) := by decide
theorem witness_BucketTable : 200 ≤ 201 ∧ bucket 200 = 25 ∧ bucket 201 = 50 := by decide
theorem witness_ExponentialDecaySteps : max 40 30 < 41 := by decide
theorem witness_ExponentialGrowthSteps : 30 ≤ 30 ∧ 30 < 31 := by decide
/-- Up, down, and down above the floor with a profile that is not Instant. -/
theorem witness_RampNeverOvershoots :
    199 < rampCore .toTarget 199 200 0 .exponential false ∧ rampCore .toTarget 110 100 0 .exponential false < 110 ∧
      rampCore .toTarget 31 0 30 .linear true < 31 ∧ (30 : Nat) < 31 := by decide
theorem witness_RampConverges : 255 ≤ 255 ∧ 0 ≤ 255 ∧ 30 ≤ 255 ∧ ((0 : Nat) = 0 ∨ 30 ≤ 0) ∧ 256 ≤ 256 := by decide
/-- Floor 30 on both channels, with values 29 and 30 on its two sides; the three commands and the channels they write. -/
theorem witness_InstantTargetRoundTrip :
    let s := (rampAt 0 0 30 0).modChan 1 fun c => { c with enabled := true, minimumDuty := 30 }
    BusReady s ∧ (∀ k : ChIdx, k = 0 ∨ k = 1 → RampDue s k ∧ ¬ Stopping s k ∧ (s.chan k).accelType = s.cfg.accelInstant ∧
        (29 : Byte).toNat < (s.chan k).minimumDuty.toNat ∧ ¬ (30 : Byte).toNat < (s.chan k).minimumDuty.toNat) ∧
      (∀ j, Decodable s.cfg (s.chan j).accelType) ∧ WritesTarget s.cfg (.speed 30) 0 ∧ WritesTarget s.cfg (.speed 30) 1 ∧
      WritesTarget s.cfg (.left 30) 0 ∧ WritesTarget s.cfg (.right 30) 1 :=
  ⟨by decide, by decide, by decide, .inl rfl, .inr rfl, rfl, rfl⟩
theorem witness_DirectionChangesOnlyAtZeroDuty :
    ∃ t, step { reverseAt 1 0 1 with inputs := [.wire (.tk 200)] } = .next t ∧
      (∀ rest, ({ reverseAt 1 0 1 with inputs := [.wire (.tk 200)] } : State).inputs ≠ .reset :: rest) ∧
      (t.chan 0).direction ≠ ((reverseAt 1 0 1).chan 0).direction := by
  refine ⟨_, rfl, ?_, by decide⟩
  intro _ h
  cases h
theorem witness_EveryStepKeepsTheInvariant :
    Inv { onState (steadyAt 128) with inputs := [.wire (.tk 128)] } ∧
      ∃ t, step { onState (steadyAt 128) with inputs := [.wire (.tk 128)] } = .next t :=
  ⟨inv_of_parts (by decide), _, rfl⟩
theorem witness_ChannelIdentityNeverChanges :
    Inv { onState (steadyAt 128) with inputs := [.reset] } ∧
      ∃ t, step { onState (steadyAt 128) with inputs := [.reset] } = .next t := ⟨inv_of_parts (by decide), _, rfl⟩
theorem witness_InvariantHoldsAfterReset : servoCfg.wf = true := by decide
theorem witness_ResetValues :
    ({ onState (steadyAt 128) with inputs := [.reset] } : State).cfg.wf = true ∧
      ({ onState (steadyAt 128) with inputs := [.reset] } : State).inputs = .reset :: [] := by decide
/-- The engine left off, and the engine on with every channel off. -/
theorem witness_TicksAfterResetDoNothing :
    (Config.default.wf = true ∧ Config.default.resetGlobalEnable = false) ∧
      (({ Config.default with resetGlobalEnable := true } : Config).wf = true ∧
        ∀ i, ({ Config.default with resetGlobalEnable := true } : Config).resetEnabled.get i = false) := by decide
/-- A channel held at duty 0 by a pause, its target kept (R144). -/
def heldByPause : State := (rampAt 0 100 0 1).modChan 0 fun c => { c with paused := true }

/-- A steady channel beside one that ramps. -/
def besideRamping : State := (steadyAt 128).modChan 1 fun c => { c with enabled := true, target := 200, accelType := 1 }

/-- A steady channel, one held at duty 0 by a pause, and a steady one beside a channel that ramps: the first tick runs on
each, and no duty has changed before it. -/
theorem witness_DcWaveform (s : State) (h : s = steadyAt 128 ∨ s = heldByPause ∨ s = besideRamping) :
    Inv s ∧ s.txPending = false ∧ (∀ j, NeverRefused s j) ∧ (∃ t, afterTicks s 1 = .next t) ∧ Processed s 0 ∧
      (s.chan 0).motorType = .dc ∧ KeepsDuty s 0 0 := by
  rcases h with rfl | rfl | rfl <;>
    exact ⟨inv_of_parts (by decide), by decide, by decide, ⟨_, rfl⟩, by decide, by decide, keepsDuty_zero _ _⟩

theorem witness_ServoWaveform :
    Inv (servoAt 3 0) ∧ (servoAt 3 0).txPending = false ∧ (∀ j, NeverRefused (servoAt 3 0) j) ∧
      (∃ t, afterTicks (servoAt 3 0) 1 = .next t) ∧ Processed (servoAt 3 0) 0 ∧
      ((servoAt 3 0).chan 0).motorType = .servo ∧ ((servoAt 3 0).chan 0).servoRefreshCount = 0 ∧
      ((servoAt 3 0).chan 0).outputLevel = false ∧ ((servoAt 3 0).chan 0).duty ≠ 0 ∧ KeepsDuty (servoAt 3 0) 0 0 :=
  ⟨inv_servo, by decide, by decide, ⟨_, rfl⟩, by decide, by decide, by decide, by decide, by decide, keepsDuty_zero _ _⟩

end Sys2Proof.Tests
end

