-- ==== Sys2Proof/Proofs/BusFront.lean ====
section
/-! The arms of the bus front-end as operations: the address-write arm (R74) and the data-write arm (R75). -/

namespace Sys2Proof.Machine

open Sys2Proof.Safety

/-- An enabled bus event completes with the front-end's effect (R70). -/
theorem exec_busevent_ready {s : State} (o a w : Bool) (rx : Byte) (h : BusReady s) :
    exec (.busevent o a w rx) s = .next (busEvent o a w rx s) :=
  onBus_ready _ h

/-- Code 0 is no command (R62). -/
theorem code_ne_zero_of_decodeCV_ok {cfg : Config} {code v : Byte} {i : Instr} (h : decodeCV cfg code v = .ok i) :
    code ≠ 0 := by
  rintro rfl
  rw [decodeCV, if_pos rfl] at h
  cases h

/-- An enabled command completes with the effect that its code and value dispatch to (R68, R85). -/
theorem exec_ready_of_decode_cvWord {s : State} {code v : Byte} {i : Instr} (h : BusReady s)
    (hdec : decode s.cfg (cvWord code v) = .ok i) : code ≠ 0 ∧ exec i s = .next (dispatch code v s) := by
  rw [decode_cvWord] at hdec
  exact ⟨code_ne_zero_of_decodeCV_ok hdec, (exec_of_decodeCV hdec).trans (onBus_ready _ h)⟩

/-- A data byte with an unknown code latched only empties the latch (R75, R97). -/
theorem busEvent_dispatch_unknown {s : State} (rx : Byte) (h0 : s.pendingCommand ≠ 0)
    (hcodes : s.pendingCommand ∉ s.cfg.codes) :
    busEvent false false true rx s = { s with pendingCommand := 0, clockHeld := false, irqPending := false } := by
  rw [busEvent_dispatch rx h0, dispatch_unknown s rx hcodes]

end Sys2Proof.Machine

namespace Sys2Proof.Proofs

open Sys2Proof.Machine Sys2Proof.Safety

/-- Settles O23: the address-write arm of an enabled bus event. -/
theorem busAddressWriteStartsAFreshSequence : Obligations.BusAddressWriteStartsAFreshSequence := by
  intro s rx hs
  rw [exec_busevent_ready false true true rx hs, busEvent_addressWrite]

/-- Settles O24: the data-write arm on an empty latch, on a command's code, and on an unknown code. -/
theorem busDataWriteLatchesOrDispatches : Obligations.BusDataWriteLatchesOrDispatches := by
  intro s rx hs
  refine ⟨_, exec_busevent_ready false false true rx hs, busEvent_latch rx, fun i hdec => ?_,
    busEvent_dispatch_unknown rx⟩
  obtain ⟨hcode, hexec⟩ := exec_ready_of_decode_cvWord hs hdec
  exact ⟨_, hexec, busEvent_dispatch rx hcode⟩

end Sys2Proof.Proofs
end

/-! What a tick does to one pin (R107, R113): its writes to a channel's duty pin are that channel's output decision,
and the pin's level afterwards depends on them alone. -/

namespace Sys2Proof.Machine

open Sys2Proof.Safety

/-- The comparator on the two bytes as numbers (R107). -/
theorem comparatorOn_eq_decide (cnt duty : Byte) : comparatorOn cnt duty = decide (cnt.toNat < duty.toNat) := by
  simp only [comparatorOn, BitVec.lt_def]

/-- The level of a pin depends only on the writes that name it. -/
theorem latchGet_setAll_filter (ls : Latches) (ws : List (Pin × Level)) (p : Pin) :
    latchGet (latchSetAll ls ws) p = latchGet (latchSetAll ls (ws.filter (·.1 = p))) p := by
  induction ws using List.reverseRecOn with
  | nil => rfl
  | append_singleton ws w ih =>
    obtain ⟨q, l⟩ := w
    by_cases h : q = p
    · simp [h, latchSetAll_append, latchSetAll, latchGet_set_same]
    · simpa [h, latchSetAll_append, latchSetAll, latchGet_set_other _ _ (Ne.symm h)] using ih

/-- The output decision writes no pin but the duty pin (R107, R108). -/
theorem outputDecision_writes_dutyPin {cnt : Byte} {c : Channel} :
    ∀ w ∈ (outputDecision cnt c).writes, w.1 = c.dutyPin := by
  cases h : c.motorType with
  | dc =>
    rw [(outputDecision_dc h).2]
    split_ifs <;> simp
  | servo =>
    rw [(outputDecision_servo h).2]
    split_ifs <;> simp

/-- `RAMP` writes no pins but the two direction pins (R140, R141). -/
theorem ramp_writes_directionPins {cfg : Config} {gp : Bool} {c : Channel} {r : ChanStep}
    (h : ramp cfg gp c = some r) : ∀ w ∈ r.writes, w.1 = c.forwardPin ∨ w.1 = c.reversePin := by
  rcases ramp_cases h with ⟨p, -, -, -, rfl⟩ | ⟨p, -, -, -, -, rfl⟩ | ⟨p, -, -, -, rfl⟩ | ⟨-, -, rfl⟩
  · simp
  · simp only [driveDirectionPins]
    split_ifs <;> simp
  · simp
  · simp

/-- A processed channel's share of a tick: the output decision comes first, the divider adds only writes to the
direction pins (R113). -/
theorem tickChannel_processed {cfg : Config} {gp : Bool} {cnt : Byte} {c : Channel} {r : ChanStep}
    (he : c.enabled = true) (h : tickChannel cfg true gp cnt c = some r) :
    r.chan.outputLevel = comparatorOn cnt c.duty ∧
      r.chan.servoRefreshCount = (outputDecision cnt c).chan.servoRefreshCount ∧
      ∃ ds : List (Pin × Level), r.writes = (outputDecision cnt c).writes ++ ds ∧
        ∀ w ∈ ds, w.1 = c.forwardPin ∨ w.1 = c.reversePin := by
  by_cases hlt : c.accelStepCount < c.accelRate
  · rw [tickChannel_counting he hlt] at h
    cases h
    exact ⟨outputDecision_outputLevel cnt c, rfl, [], by simp, by simp⟩
  · rw [tickChannel_ramping he (BitVec.not_lt.1 hlt)] at h
    obtain ⟨q, hq, rfl⟩ := Option.map_eq_some_iff.1 h
    exact ⟨rfl, rfl, q.writes, rfl, ramp_writes_directionPins hq⟩

/-- A tick writes no pin for a channel but the channel's own three (R43). -/
theorem tickChannel_writes_own {cfg : Config} {ge gp : Bool} {cnt : Byte} {c : Channel} {r : ChanStep}
    (h : tickChannel cfg ge gp cnt c = some r) :
    ∀ w ∈ r.writes, w.1 = c.dutyPin ∨ w.1 = c.forwardPin ∨ w.1 = c.reversePin := by
  rcases tickChannel_cases h with ⟨rfl, he, -⟩ | ⟨-, -, rfl⟩ | ⟨-, -, rfl⟩
  · obtain ⟨-, -, ds, hws, hds⟩ := tickChannel_processed he h
    intro w hw
    rw [hws, List.mem_append] at hw
    exact hw.imp (outputDecision_writes_dutyPin w) (hds w)
  · simp [forceLow]
  · simp

/-- A completed tick is made of the four channels' shares (R105). -/
theorem exec_tick_next {cnt : Byte} {s t : State} (h : exec (.tick cnt) s = .next t) :
    ∃ r : ChIdx → ChanStep,
      (∀ i, tickChannel s.cfg s.globalEnable s.globalPause cnt (s.chan i) = some (r i)) ∧ t = afterTick s r :=
  tickAll_next (onTick_next.1 h).2

/-- A pin that only channel `i` writes in a tick gets the writes of `i`'s share. -/
theorem filter_shares {r : ChIdx → ChanStep} {i : ChIdx} {p : Pin}
    (others : ∀ j, j ≠ i → ∀ w ∈ (r j).writes, w.1 ≠ p) :
    ((r 0).writes ++ (r 1).writes ++ (r 2).writes ++ (r 3).writes).filter (·.1 = p) =
      (r i).writes.filter (·.1 = p) := by
  have empty : ∀ j, j ≠ i → (r j).writes.filter (·.1 = p) = [] := fun j hj =>
    List.filter_eq_nil_iff.2 fun w hw => by simpa using others j hj w hw
  simp only [List.filter_append]
  fin_cases i <;> simp [empty]

/-- The invariant keeps the duty pin of channel `i` apart from every pin of another channel (R7, R11). -/
theorem dutyPin_ne_of_other {s : State} (hI : Inv s) {i j : ChIdx} (hij : j ≠ i) {p : Pin}
    (hp : p = (s.chan j).dutyPin ∨ p = (s.chan j).forwardPin ∨ p = (s.chan j).reversePin) :
    p ≠ (s.chan i).dutyPin := by
  obtain ⟨dutyInj, -, -, dutyFwd, dutyRev, -⟩ := Config.pin_facts hI.cfgWf i j
  have hi := hI.channels i
  have hj := hI.channels j
  rw [hi.dutyPin]
  rcases hp with rfl | rfl | rfl
  · rw [hj.dutyPin]; exact fun e => hij (dutyInj e.symm).symm
  · rw [hj.forwardPin]; exact dutyFwd.symm
  · rw [hj.reversePin]; exact dutyRev.symm

/-- The invariant keeps a channel's duty pin apart from its direction pins (R7, R11). -/
theorem dutyPin_ne_of_direction {s : State} (hI : Inv s) (i : ChIdx) {p : Pin}
    (hp : p = (s.chan i).forwardPin ∨ p = (s.chan i).reversePin) : p ≠ (s.chan i).dutyPin := by
  obtain ⟨-, -, -, dutyFwd, dutyRev, -⟩ := Config.pin_facts hI.cfgWf i i
  have hi := hI.channels i
  rw [hi.dutyPin]
  rcases hp with rfl | rfl
  · rw [hi.forwardPin]; exact dutyFwd.symm
  · rw [hi.reversePin]; exact dutyRev.symm

/-- The duty pin of channel `i` in a tick: it is written as `i`'s share says, and its level follows from those writes. -/
theorem afterTick_dutyPin {cnt : Byte} {s : State} {r : ChIdx → ChanStep} (hI : Inv s)
    (hr : ∀ j, tickChannel s.cfg s.globalEnable s.globalPause cnt (s.chan j) = some (r j)) (i : ChIdx) :
    (afterTick s r).trace.filter (·.1 = (s.chan i).dutyPin) =
        s.trace.filter (·.1 = (s.chan i).dutyPin) ++ (r i).writes.filter (·.1 = (s.chan i).dutyPin) ∧
      (afterTick s r).pin (s.chan i).dutyPin =
        latchGet (latchSetAll s.pins ((r i).writes.filter (·.1 = (s.chan i).dutyPin))) (s.chan i).dutyPin := by
  have shares := filter_shares (r := r) (i := i) fun j hj w hw =>
    dutyPin_ne_of_other hI hj (tickChannel_writes_own (hr j) w hw)
  constructor
  · rw [afterTick, State.writePins_trace, List.filter_append, shares]
  · rw [State.pin, afterTick, State.writePins_pins, latchGet_setAll_filter, shares]

/-- The writes of a processed channel's share to its duty pin are those of the output decision (R113). -/
theorem tickChannel_processed_dutyPin {cnt : Byte} {s : State} {i : ChIdx} {r : ChanStep} (hI : Inv s)
    (hp : Processed s i) (hr : tickChannel s.cfg s.globalEnable s.globalPause cnt (s.chan i) = some r) :
    r.writes.filter (·.1 = (s.chan i).dutyPin) = (outputDecision cnt (s.chan i)).writes := by
  obtain ⟨hge, he⟩ := hp
  rw [hge] at hr
  obtain ⟨-, -, ds, hws, hds⟩ := tickChannel_processed he hr
  have keep : (outputDecision cnt (s.chan i)).writes.filter (·.1 = (s.chan i).dutyPin) =
      (outputDecision cnt (s.chan i)).writes :=
    List.filter_eq_self.2 fun w hw => by simpa using outputDecision_writes_dutyPin w hw
  have drop : ds.filter (·.1 = (s.chan i).dutyPin) = [] :=
    List.filter_eq_nil_iff.2 fun w hw => by simpa using dutyPin_ne_of_direction hI i (hds w hw)
  rw [hws, List.filter_append, keep, drop, List.append_nil]

/-- The duty pin of a DC channel reads as its flag says (R24 (a)). -/
theorem pin_of_dc {s : State} (hI : Inv s) {i : ChIdx} (hdc : (s.chan i).motorType = .dc) :
    s.pin (s.chan i).dutyPin = if (s.chan i).outputLevel then .high else .low := by
  have hpin := (hI.channels i).dcPin hdc
  cases hl : s.pin (s.chan i).dutyPin with
  | low => rw [if_neg (by simp [← hpin, hl])]
  | high => rw [if_pos (hpin.1 hl)]

end Sys2Proof.Machine

namespace Sys2Proof.Proofs

open Sys2Proof.Machine Sys2Proof.Safety

/-- Settles O35: the share of a processed DC channel writes its duty pin only where the comparator and the flag differ,
and where they agree the pin already reads as the flag says. -/
theorem dcPinFollowsTheComparator : Obligations.DcPinFollowsTheComparator := by
  intro s t cnt i hI hexec hp hdc on p
  obtain ⟨r, hr, rfl⟩ := exec_tick_next hexec
  have hon : comparatorOn cnt (s.chan i).duty = on := comparatorOn_eq_decide _ _
  obtain ⟨hlevel, hcount, -⟩ := tickChannel_processed hp.2 (hp.1 ▸ hr i)
  obtain ⟨hcountDc, hwrites⟩ := outputDecision_dc (cnt := cnt) hdc
  obtain ⟨htrace, hpin⟩ := afterTick_dutyPin hI hr i
  rw [tickChannel_processed_dutyPin hI hp (hr i), hwrites, hon] at htrace hpin
  refine ⟨by rw [afterTick_chan, hlevel, hon], hpin.trans ?_, by rw [afterTick_chan, hcount, hcountDc], htrace⟩
  by_cases hsame : on = (s.chan i).outputLevel
  · rw [if_pos hsame, hsame]
    exact pin_of_dc hI hdc
  · rw [if_neg hsame]
    exact latchGet_set_same _ _ _

end Sys2Proof.Proofs

/-! The ramp's arithmetic (R129, R135), and a tick on a channel where `RAMP` has nothing to do (R143). -/

namespace Sys2Proof.Machine

open Sys2Proof.Safety

/-- Below a floor that the target reaches, the profile starts from the floor (R129). -/
theorem rampCore_below_floor (dist : ExpGrowDist) {d t m : Nat} (p : Profile) (stop : Bool) (hd : d < m) (ht : m ≤ t) :
    rampCore dist d t m p stop = profileStep dist m t m p stop :=
  if_pos ⟨hd, ht⟩

/-- With duty and target at or above the floor there is no snap: the step is the profile's (R132). -/
theorem rampCore_no_snap (dist : ExpGrowDist) {d t m : Nat} (p : Profile) (stop : Bool) (hd : m ≤ d) (ht : m ≤ t) :
    rampCore dist d t m p stop = profileStep dist d t m p stop := by
  unfold rampCore
  rw [if_neg fun h => hd.not_gt h.1, if_neg fun h => ht.not_gt h.2]

/-- A greater distance never gives a smaller step: at the first threshold the greater distance is above, its step is at
least that of every lower bucket (R135). -/
theorem bucket_mono : Monotone bucket := by
  intro x y hxy
  unfold bucket
  split_ifs <;> omega

/-- The Stop arm's condition on a channel of the state (R126). -/
theorem stopCondition_iff_stopping (s : State) (i : ChIdx) :
    stopCondition s.globalPause (s.chan i) = true ↔ Stopping s i := by
  simp [stopCondition, or_assoc]

/-- With no stop asked for and the duty at its target `RAMP` leaves the channel as it is, without reading the profile
(R143). -/
theorem ramp_steady (cfg : Config) {gp : Bool} {c : Channel} (hstop : ¬ stopCondition gp c = true)
    (hduty : c.duty = c.target) : ramp cfg gp c = some { chan := c, writes := [] } := by
  unfold ramp
  rw [if_neg hstop, if_neg (not_not.2 hduty)]

/-- The share of a tick that runs `RAMP` on a channel at its target: the output decision, and the divider starts again
(R112, R143). -/
theorem tickChannel_steady {cfg : Config} {gp : Bool} {cnt : Byte} {c : Channel} (he : c.enabled = true)
    (hdue : c.accelRate ≤ c.accelStepCount) (hstop : ¬ stopCondition gp c = true) (hduty : c.duty = c.target) :
    tickChannel cfg true gp cnt c =
      some { chan := { c with outputLevel := comparatorOn cnt c.duty
                              servoRefreshCount := (outputDecision cnt c).chan.servoRefreshCount
                              accelStepCount := 0 }
             writes := (outputDecision cnt c).writes } := by
  rw [tickChannel_ramping he hdue, ramp_steady cfg hstop hduty, Option.map_some, List.append_nil]

/-- The invariant keeps the direction pins of channel `i` apart from every pin of another channel (R7, R11). -/
theorem directionPin_ne_of_other {s : State} (hI : Inv s) {i j : ChIdx} (hij : j ≠ i) {p : Pin}
    (hp : p = (s.chan j).dutyPin ∨ p = (s.chan j).forwardPin ∨ p = (s.chan j).reversePin) :
    ¬ (p = (s.chan i).forwardPin ∨ p = (s.chan i).reversePin) := by
  obtain ⟨-, fwdInj, revInj, dutyFwd, dutyRev, fwdRev⟩ := Config.pin_facts hI.cfgWf j i
  obtain ⟨-, -, -, -, -, fwdRev'⟩ := Config.pin_facts hI.cfgWf i j
  have hi := hI.channels i
  have hj := hI.channels j
  rw [hi.forwardPin, hi.reversePin, not_or]
  rcases hp with rfl | rfl | rfl
  · rw [hj.dutyPin]; exact ⟨dutyFwd, dutyRev⟩
  · rw [hj.forwardPin]; exact ⟨hij ∘ fwdInj, fwdRev⟩
  · rw [hj.reversePin]; exact ⟨fwdRev'.symm, hij ∘ revInj⟩

/-- When channel `i`'s share names no direction pin of `i`, the tick writes none of them: no other channel can. -/
theorem afterTick_directionPins_unwritten {cnt : Byte} {s : State} {r : ChIdx → ChanStep} (hI : Inv s)
    (hr : ∀ j, tickChannel s.cfg s.globalEnable s.globalPause cnt (s.chan j) = some (r j)) {i : ChIdx}
    (own : ∀ w ∈ (r i).writes, ¬ (w.1 = (s.chan i).forwardPin ∨ w.1 = (s.chan i).reversePin)) :
    (afterTick s r).trace.filter (fun w => w.1 = (s.chan i).forwardPin ∨ w.1 = (s.chan i).reversePin) =
      s.trace.filter (fun w => w.1 = (s.chan i).forwardPin ∨ w.1 = (s.chan i).reversePin) := by
  have unnamed : ∀ j, ∀ w ∈ (r j).writes, ¬ (w.1 = (s.chan i).forwardPin ∨ w.1 = (s.chan i).reversePin) := by
    intro j
    by_cases hij : j = i
    · exact hij ▸ own
    · exact fun w hw => directionPin_ne_of_other hI hij (tickChannel_writes_own (hr j) w hw)
  have empty : ∀ j, (r j).writes.filter (fun w => w.1 = (s.chan i).forwardPin ∨ w.1 = (s.chan i).reversePin) = [] :=
    fun j => List.filter_eq_nil_iff.2 fun w hw => by simpa using unnamed j w hw
  rw [afterTick, State.writePins_trace]
  simp only [List.filter_append, empty, List.append_nil]

end Sys2Proof.Machine

namespace Sys2Proof.Proofs

open Sys2Proof.Machine Sys2Proof.Safety

/-- Settles O42: the channel's share is its output decision alone, which writes the duty pin, and that pin is neither of
the direction pins. -/
theorem rampAtTargetWritesNothing : Obligations.RampAtTargetWritesNothing := by
  intro s t cnt i hI hexec hdue hstop hduty c
  obtain ⟨⟨hge, he⟩, hreached⟩ := hdue
  obtain ⟨r, hr, rfl⟩ := exec_tick_next hexec
  have share := hr i
  rw [hge, tickChannel_steady he hreached (mt (stopCondition_iff_stopping s i).1 hstop) hduty, Option.some_inj] at share
  rw [afterTick_chan, ← share]
  refine ⟨rfl, rfl, afterTick_directionPins_unwritten hI hr ?_⟩
  rw [← share]
  exact fun w hw hdir => dutyPin_ne_of_direction hI i hdir (outputDecision_writes_dutyPin w hw)

/-- Settles O43: the lift to the floor is the first branch, and from the floor itself no snap applies. -/
theorem floorSnapUpThenProfile : Obligations.FloorSnapUpThenProfile := by
  intro dist d t m p stop hd ht
  have fromFloor : rampCore dist m t m p stop = profileStep dist m t m p stop :=
    rampCore_no_snap dist p stop le_rfl ht
  exact ⟨(rampCore_below_floor dist p stop hd ht).trans fromFloor.symm, fromFloor⟩

/-- Settles O47: the table is the definition of `bucket`, and the buckets are monotone. -/
theorem bucketTable : Obligations.BucketTable :=
  ⟨fun _ => rfl, fun _ _ hxy => bucket_mono hxy⟩

end Sys2Proof.Proofs

/-! The code map in both directions (R56 to R59, R68): what the decoder answers on an encoded operation, and which words
it rejects. -/

namespace Sys2Proof

/-- Each of the ten codes decodes to its own command: no code is 0 and no two are the same (R7, R68). -/
theorem decodeCV_code {cfg : Config} (h : cfg.wf = true) (v : Byte) :
    decodeCV cfg cfg.codeSpeed v = .ok (.speed v) ∧ decodeCV cfg cfg.codeLeft v = .ok (.left v) ∧
      decodeCV cfg cfg.codeRight v = .ok (.right v) ∧ decodeCV cfg cfg.codeSettings v = .ok (.settings v) ∧
      decodeCV cfg cfg.codeDirection v = .ok (.direction v) ∧ decodeCV cfg cfg.codeEnable v = .ok (.enable v) ∧
      decodeCV cfg cfg.codePause v = .ok (.pause v) ∧ decodeCV cfg cfg.codeAccel v = .ok (.accel v) ∧
      decodeCV cfg cfg.codeAccelRate v = .ok (.accelRate v) ∧
      decodeCV cfg cfg.codeMinimumDuty v = .ok (.minimumDuty v) := by
  have nonzero := Config.zero_not_code h
  have distinct := Config.codes_nodup h
  simp only [Config.codes, List.nodup_cons, List.mem_cons, List.not_mem_nil, or_false, not_or] at nonzero distinct
  unfold decodeCV
  refine ⟨?_, ?_, ?_, ?_, ?_, ?_, ?_, ?_, ?_, ?_⟩ <;> grind

/-- Each of the four readable codes is the selection of its own read, whatever the read/write bit (R57, R68). -/
theorem decodeRD_code {cfg : Config} (h : cfg.wf = true) (w : Bool) :
    decodeRD cfg (rdByte cfg.codeLeft w) = .ok (.readLeft w) ∧
      decodeRD cfg (rdByte cfg.codeRight w) = .ok (.readRight w) ∧
      decodeRD cfg (rdByte cfg.codeSettings w) = .ok (.readSettings w) ∧
      decodeRD cfg (rdByte cfg.codeSpeed w) = .ok (.readSpeed w) := by
  have sel : ∀ a ∈ cfg.readableCodes, selectionOf (rdByte a w) = a := fun a ha =>
    selectionOf_rdByte w (Config.readable_le h ha)
  have distinct := Config.codes_nodup h
  simp only [Config.readableCodes, List.mem_cons, List.not_mem_nil, or_false, forall_eq_or_imp, forall_eq] at sel
  simp only [Config.codes, List.nodup_cons, List.mem_cons, List.not_mem_nil, or_false, not_or] at distinct
  obtain ⟨speed, left, right, settings⟩ := sel
  simp only [decodeRD, rdByte_bit0, speed, left, right, settings]
  refine ⟨?_, ?_, ?_, ?_⟩ <;> grind

/-- A well-formed configuration's encoding is read back as the operation it encodes (R68). -/
theorem decode_encode {cfg : Config} (h : cfg.wf = true) (i : Instr) : decode cfg (encode cfg i) = .ok i := by
  have code := decodeCV_code h
  have read := decodeRD_code h
  cases i with
  | tick cnt => rfl
  | busevent o a w rx => exact congrArg Except.ok (decodeBE_beWord o a w rx)
  | readLeft w => exact (read w).1
  | readRight w => exact (read w).2.1
  | readSettings w => exact (read w).2.2.1
  | readSpeed w => exact (read w).2.2.2
  | _ v => simp [encode, code v]

/-- A bus event's word is determined by its flags and its byte (R59). -/
theorem beWord_eta (b : BitVec 11) :
    beWord (b.getLsbD 10) (b.getLsbD 9) (b.getLsbD 8) (b.extractLsb' 0 8) = b := by
  apply BitVec.eq_of_getLsbD_eq
  intro k hk
  simp only [beWord, BitVec.getLsbD_append, BitVec.getLsbD_ofBool, BitVec.getLsbD_extractLsb']
  interval_cases k <;> simp

/-- A word that decodes is the encoding of what it decodes to (R68). -/
theorem encode_of_decode {cfg : Config} {w : Wire} {i : Instr} (h : decode cfg w = .ok i) : encode cfg i = w := by
  revert h
  cases w with
  | cv bits =>
    refine decodeCV_cases (P := (· = .ok i → _)) cfg (cvCode bits) (cvValue bits) ?_ ?_ ?_
    · exact fun _ h => nomatch h
    · intro j _ _ hj h
      cases h
      rw [hj, cvWord, cv_eta]
    · exact fun _ _ h => nomatch h
  | rd bits =>
    refine decodeRD_cases (P := (· = .ok i → _)) cfg bits ?_ ?_
    · intro j hj _ h
      cases h
      exact hj
    · exact fun _ h => nomatch h
  | tk bits => rintro ⟨⟩; rfl
  | be bits =>
    rintro ⟨⟩
    exact congrArg Wire.be (beWord_eta bits)

/-- A write transaction is rejected exactly with code 0 or an unknown code (R62, R63). -/
theorem decodeCV_error_iff (cfg : Config) (code v : Byte) :
    (∃ e, decodeCV cfg code v = .error e) ↔ code = 0 ∨ code ∉ cfg.codes := by
  refine decodeCV_cases (P := fun r => (∃ e, r = .error e) ↔ _) cfg code v ?_ ?_ ?_
  · exact fun h0 => ⟨fun _ => .inl h0, fun _ => ⟨_, rfl⟩⟩
  · exact fun i h0 hmem _ => ⟨fun ⟨_, h⟩ => (nomatch h), fun h => absurd hmem (h.resolve_left h0)⟩
  · exact fun _ hmem => ⟨fun _ => .inr hmem, fun _ => ⟨_, rfl⟩⟩

/-- A read is rejected exactly with an unknown selection (R101). -/
theorem decodeRD_error_iff (cfg : Config) (b : Byte) :
    (∃ e, decodeRD cfg b = .error e) ↔ selectionOf b ∉ cfg.readableCodes := by
  refine decodeRD_cases (P := fun r => (∃ e, r = .error e) ↔ _) cfg b ?_ ?_
  · exact fun i _ hmem => ⟨fun ⟨_, h⟩ => (nomatch h), fun h => absurd hmem h⟩
  · exact fun hmem => ⟨fun _ => hmem, fun _ => ⟨_, rfl⟩⟩

end Sys2Proof

namespace Sys2Proof.Proofs

open Sys2Proof.Machine Sys2Proof.Safety

/-- Settles O1: per format, from the codes being distinct, not 0, and within a selection's seven bits where they are
readable. -/
theorem decodeEncodeRoundTrip : Obligations.DecodeEncodeRoundTrip :=
  fun _ i h => decode_encode h i

/-- Settles O2: each format's fields determine its word. -/
theorem decodedWordIsTheEncoding : Obligations.DecodedWordIsTheEncoding :=
  fun _ _ _ h => encode_of_decode h

/-- Settles O3: ticks and bus events always decode; for the other two formats, by the codes compared. -/
theorem onlyUnlistedWordsAreRejected : Obligations.OnlyUnlistedWordsAreRejected := by
  intro cfg w
  cases w with
  | cv bits => simpa [decode] using decodeCV_error_iff cfg (cvCode bits) (cvValue bits)
  | rd bits => simpa [decode] using decodeRD_error_iff cfg bits
  | tk bits => simp [decode]
  | be bits => simp [decode]

/-- Settles O4: the words are numerals, so each conjunct evaluates. -/
theorem tableWordsDecodeToTheirOperations : Obligations.TableWordsDecodeToTheirOperations := by
  unfold Obligations.TableWordsDecodeToTheirOperations
  decide

/-- Settles O5: the step takes the event off the list, and `runWire` is `exec` of what it decodes to. -/
theorem stepRunsTheDecodedOperation : Obligations.StepRunsTheDecodedOperation := by
  intro s w rest i hinputs hdec
  rw [step_cons hinputs]
  show runWire w { s with inputs := rest } = _
  rw [runWire]
  simp only [hdec]

end Sys2Proof.Proofs

/-! One channel's share of a tick, in two parts: the writes to its duty pin, then the writes to its direction pins
(R113, R141), and which of the tick's writes name a channel's own pins. -/

namespace Sys2Proof.Machine

open Sys2Proof.Safety

/-- The writes of a channel's share of a tick to its duty pin: the output decision's, or those of forcing it low
(R107, R108, R111). -/
def dutyWrites (globalEnable : Bool) (cnt : Byte) (c : Channel) : List (Pin × Level) :=
  if globalEnable && c.enabled then (outputDecision cnt c).writes
  else if c.outputLevel then (forceLow c).writes
  else []

/-- The output decision writes the duty pin at most once (R107, R108). -/
theorem outputDecision_writes_once (cnt : Byte) (c : Channel) :
    (outputDecision cnt c).writes = [] ∨ ∃ l, (outputDecision cnt c).writes = [(c.dutyPin, l)] := by
  cases h : c.motorType with
  | dc =>
    rw [(outputDecision_dc h).2]
    split_ifs <;> simp
  | servo =>
    rw [(outputDecision_servo h).2]
    split_ifs <;> simp

/-- A channel's share writes its duty pin at most once. -/
theorem dutyWrites_once (ge : Bool) (cnt : Byte) (c : Channel) :
    dutyWrites ge cnt c = [] ∨ ∃ l, dutyWrites ge cnt c = [(c.dutyPin, l)] := by
  unfold dutyWrites
  split_ifs
  · exact outputDecision_writes_once cnt c
  · exact .inr ⟨.low, rfl⟩
  · exact .inl rfl

/-- No write of `dutyWrites` names another pin than the duty pin. -/
theorem dutyWrites_dutyPin {ge : Bool} {cnt : Byte} {c : Channel} : ∀ w ∈ dutyWrites ge cnt c, w.1 = c.dutyPin := by
  rcases dutyWrites_once ge cnt c with h | ⟨l, h⟩ <;> simp [h]

/-- The direction pins' part of a share: either nothing happens to the direction, or it is taken over with the duty at
0 and both pins are driven (R140). -/
def KeepsOrFlips (c c' : Channel) (f : List (Pin × Level)) : Prop :=
  (f = [] ∧ c'.direction = c.direction) ∨
    (f = driveDirectionPins c' ∧ c'.duty = 0 ∧ c'.direction = c.targetDirection ∧ c.direction ≠ c.targetDirection)

/-- What `RAMP` does to the direction and its pins (R140, R143). -/
theorem ramp_keepsOrFlips {cfg : Config} {gp : Bool} {c : Channel} {r : ChanStep} (h : ramp cfg gp c = some r) :
    KeepsOrFlips c r.chan r.writes := by
  rcases ramp_cases h with ⟨p, -, -, -, rfl⟩ | ⟨p, -, -, -, hdir, rfl⟩ | ⟨p, -, -, -, rfl⟩ | ⟨-, -, rfl⟩
  · exact .inl ⟨rfl, rfl⟩
  · exact .inr ⟨rfl, rfl, rfl, hdir⟩
  · exact .inl ⟨rfl, rfl⟩
  · exact .inl ⟨rfl, rfl⟩

/-- A channel's share of a tick: the duty pin's writes first, then the direction pins' (R113). -/
theorem tickChannel_writes {cfg : Config} {ge gp : Bool} {cnt : Byte} {c : Channel} {r : ChanStep}
    (h : tickChannel cfg ge gp cnt c = some r) :
    ∃ f, r.writes = dutyWrites ge cnt c ++ f ∧ KeepsOrFlips c r.chan f := by
  by_cases hp : ge = true ∧ c.enabled = true
  · obtain ⟨rfl, he⟩ := hp
    have hduty : dutyWrites true cnt c = (outputDecision cnt c).writes := by simp [dutyWrites, he]
    rw [hduty]
    by_cases hlt : c.accelStepCount < c.accelRate
    · rw [tickChannel_counting he hlt, Option.some_inj] at h
      subst h
      exact ⟨[], (List.append_nil _).symm, .inl ⟨rfl, by simp only; rw [outputDecision_chan]⟩⟩
    · rw [tickChannel_ramping he (BitVec.not_lt.1 hlt)] at h
      obtain ⟨q, hq, rfl⟩ := Option.map_eq_some_iff.1 h
      exact ⟨q.writes, rfl, ramp_keepsOrFlips hq⟩
  · have hge : ¬ (ge && c.enabled) = true := by rwa [Bool.and_eq_true]
    rcases tickChannel_cases h with ⟨hg, he, -⟩ | ⟨-, ho, rfl⟩ | ⟨-, ho, rfl⟩
    · exact absurd ⟨hg, he⟩ hp
    · exact ⟨[], by rw [dutyWrites, if_neg hge, if_pos ho, List.append_nil], .inl ⟨rfl, rfl⟩⟩
    · exact ⟨[], by rw [dutyWrites, if_neg hge, if_neg (by simp [ho])]; rfl, .inl ⟨rfl, rfl⟩⟩

/-- The two shapes of driving the direction pins, the released one first (R141). -/
theorem driveDirectionPins_eq (c : Channel) :
    driveDirectionPins c =
      if c.direction then [(c.forwardPin, .low), (c.reversePin, .high)]
      else [(c.reversePin, .low), (c.forwardPin, .high)] := rfl

/-- Driving the direction pins names the channel's own two pins only. -/
theorem KeepsOrFlips.writes_directionPins {c c' : Channel} {f : List (Pin × Level)} (h : KeepsOrFlips c c' f)
    (hf : c'.forwardPin = c.forwardPin) (hr : c'.reversePin = c.reversePin) :
    ∀ w ∈ f, w.1 = c.forwardPin ∨ w.1 = c.reversePin := by
  rcases h with ⟨rfl, -⟩ | ⟨rfl, -⟩
  · simp
  · rw [driveDirectionPins_eq, hf, hr]
    split_ifs <;> simp

/-- The pins of a record after a tick are those before it (R33). -/
theorem tickChannel_pins {cfg : Config} {ge gp : Bool} {cnt : Byte} {c : Channel} {r : ChanStep}
    (h : tickChannel cfg ge gp cnt c = some r) :
    r.chan.dutyPin = c.dutyPin ∧ r.chan.forwardPin = c.forwardPin ∧ r.chan.reversePin = c.reversePin ∧
      r.chan.motorType = c.motorType := by
  rw [tickChannel_frame h]
  exact ⟨rfl, rfl, rfl, rfl⟩

/-- Of a tick's writes, those that a test picks which no other channel's share meets are channel `i`'s. -/
theorem filter_share {r : ChIdx → ChanStep} {i : ChIdx} {q : Pin × Level → Bool}
    (others : ∀ j, j ≠ i → ∀ w ∈ (r j).writes, q w = false) :
    ((r 0).writes ++ (r 1).writes ++ (r 2).writes ++ (r 3).writes).filter q = (r i).writes.filter q := by
  have empty : ∀ j, j ≠ i → (r j).writes.filter q = [] := fun j hj =>
    List.filter_eq_nil_iff.2 fun w hw => by simp [others j hj w hw]
  simp only [List.filter_append]
  fin_cases i <;> simp [empty]

section Shares

variable {cnt : Byte} {s : State} {r : ChIdx → ChanStep} (hI : Inv s)
  (hr : ∀ j, tickChannel s.cfg s.globalEnable s.globalPause cnt (s.chan j) = some (r j))

include hI hr

/-- The writes of channel `i`'s share to its duty pin. -/
theorem share_dutyPin (i : ChIdx) :
    (r i).writes.filter (·.1 = (s.chan i).dutyPin) = dutyWrites s.globalEnable cnt (s.chan i) := by
  obtain ⟨f, hws, hf⟩ := tickChannel_writes (hr i)
  obtain ⟨-, hfwd, hrev, -⟩ := tickChannel_pins (hr i)
  have keep : (dutyWrites s.globalEnable cnt (s.chan i)).filter (·.1 = (s.chan i).dutyPin) =
      dutyWrites s.globalEnable cnt (s.chan i) :=
    List.filter_eq_self.2 fun w hw => by simpa using dutyWrites_dutyPin w hw
  have drop : f.filter (·.1 = (s.chan i).dutyPin) = [] :=
    List.filter_eq_nil_iff.2 fun w hw => by
      simpa using dutyPin_ne_of_direction hI i (hf.writes_directionPins hfwd hrev w hw)
  rw [hws, List.filter_append, keep, drop, List.append_nil]

/-- The writes of a tick to channel `i`'s duty pin, and the level they leave there. -/
theorem afterTick_dutyWrites (i : ChIdx) :
    (afterTick s r).trace.filter (·.1 = (s.chan i).dutyPin) =
        s.trace.filter (·.1 = (s.chan i).dutyPin) ++ dutyWrites s.globalEnable cnt (s.chan i) ∧
      (afterTick s r).pin (s.chan i).dutyPin =
        latchGet (latchSetAll s.pins (dutyWrites s.globalEnable cnt (s.chan i))) (s.chan i).dutyPin := by
  rw [← share_dutyPin hI hr i]
  exact afterTick_dutyPin hI hr i

/-- The writes of a tick to channel `i`'s direction pins, and the levels they leave there: those of the second part of
its share. -/
theorem afterTick_directionPins (i : ChIdx) :
    ∃ f, KeepsOrFlips (s.chan i) (r i).chan f ∧
      (afterTick s r).trace.filter (fun w => w.1 = (s.chan i).forwardPin ∨ w.1 = (s.chan i).reversePin) =
        s.trace.filter (fun w => w.1 = (s.chan i).forwardPin ∨ w.1 = (s.chan i).reversePin) ++ f ∧
      ∀ p, p = (s.chan i).forwardPin ∨ p = (s.chan i).reversePin →
        (afterTick s r).pin p = latchGet (latchSetAll s.pins f) p := by
  obtain ⟨f, hws, hf⟩ := tickChannel_writes (hr i)
  obtain ⟨-, hfwd, hrev, -⟩ := tickChannel_pins (hr i)
  have own := hf.writes_directionPins hfwd hrev
  have pick : ∀ q : Pin × Level → Bool,
      (∀ w, q w = true → w.1 = (s.chan i).forwardPin ∨ w.1 = (s.chan i).reversePin) →
      ((r 0).writes ++ (r 1).writes ++ (r 2).writes ++ (r 3).writes).filter q = f.filter q := by
    intro q hq
    have others : ∀ j, j ≠ i → ∀ w ∈ (r j).writes, q w = false := fun j hj w hw =>
      Bool.eq_false_iff.2 fun e => directionPin_ne_of_other hI hj (tickChannel_writes_own (hr j) w hw) (hq w e)
    have notDuty : (dutyWrites s.globalEnable cnt (s.chan i)).filter q = [] :=
      List.filter_eq_nil_iff.2 fun w hw e => dutyPin_ne_of_direction hI i (hq w e) (dutyWrites_dutyPin w hw)
    rw [filter_share others, hws, List.filter_append, notDuty, List.nil_append]
  refine ⟨f, hf, ?_, fun p hp => ?_⟩
  · rw [afterTick, State.writePins_trace, List.filter_append, pick _ fun w hw => of_decide_eq_true hw,
      List.filter_eq_self.2 fun w hw => decide_eq_true (own w hw)]
  · rw [State.pin, afterTick, State.writePins_pins, latchGet_setAll_filter,
      pick (·.1 = p) fun w hw => of_decide_eq_true hw ▸ hp, ← latchGet_setAll_filter]

end Shares

end Sys2Proof.Machine

/-! What one step can do (R33, R49): an operation of the bus agent within its frame, a tick, the end of a read's wait,
RESET, or nothing. -/

namespace Sys2Proof.Machine

open Sys2Proof.Safety

/-- A command of the table has the effect that its code and value dispatch to (R68, R85). -/
theorem exec_command {s : State} {i : Instr} (hw : s.cfg.wf = true) (hi : isCommand i = true) :
    ∃ code v, exec i s = onBus s (dispatch code v s) := by
  have hdec := decode_encode hw i
  have ofWord : ∀ code v, encode s.cfg i = cvWord code v → ∃ code v, exec i s = onBus s (dispatch code v s) :=
    fun code v henc => ⟨code, v, exec_of_decodeCV (by rw [← decode_cvWord, ← henc, hdec])⟩
  cases i with
  | readLeft | readRight | readSettings | readSpeed | tick | busevent => cases hi
  | _ v => exact ofWord _ v rfl

/-- What an operation of the bus agent may write (R33), and what it leaves between operations (R27, R76, R77). -/
structure BusFrame (s t : State) : Prop where
  state : t = { s with ch := t.ch, globalEnable := t.globalEnable, globalPause := t.globalPause, settings := t.settings,
                       pendingCommand := t.pendingCommand, clockHeld := t.clockHeld, irqPending := t.irqPending,
                       tx := t.tx, txPending := t.txPending, freeCount := t.freeCount }
  chan : ∀ k, t.chan k =
    { s.chan k with
      target := (t.chan k).target, targetDirection := (t.chan k).targetDirection, enabled := (t.chan k).enabled
      paused := (t.chan k).paused, accelType := (t.chan k).accelType, accelRate := (t.chan k).accelRate
      minimumDuty := (t.chan k).minimumDuty }
  settings : t.settings = s.settings ∨ ∃ v, t.settings = settingsField s.cfg v
  waiting : s.irqPending = s.txPending → t.irqPending = t.txPending
  notBoth : ¬ (t.txPending = true ∧ t.clockHeld = true)

/-- A command leaves the settings byte alone or stores the masked bits of its value (R27, R89). -/
theorem dispatch_settings (s : State) (code v : Byte) :
    (dispatch code v s).settings = s.settings ∨ ∃ b, (dispatch code v s).settings = settingsField s.cfg b :=
  dispatch_cases (P := fun t => t.settings = s.settings ∨ ∃ b, t.settings = settingsField s.cfg b) s code v
    (.inl rfl) (.inl rfl) (.inl rfl) (.inl rfl) (.inr ⟨v, rfl⟩) (.inl rfl) (.inl rfl) (.inl rfl) (.inl rfl) (.inl rfl)
    (.inl rfl)

/-- A command's frame is within the bus agent's (R33). -/
theorem CommandFrame.busFrame {s t : State} (frame : CommandFrame s t) (hs : BusReady s)
    (hset : t.settings = s.settings ∨ ∃ b, t.settings = settingsField s.cfg b) : BusFrame s t := by
  refine ⟨?_, frame.chan, hset, ?_, ?_⟩ <;> rw [frame.state]
  · exact id
  · simp [hs.2.1]

/-- A command's effect with the front-end's own fields written too is within the bus agent's frame, when the front-end
is left consistent. -/
theorem busFrame_dispatch {s : State} (code v : Byte) {pc tx : Byte} {ck irq txp : Bool} {n : Nat}
    (hirq : s.irqPending = s.txPending → irq = txp) (hboth : ¬ (txp = true ∧ ck = true)) :
    BusFrame s { dispatch code v s with pendingCommand := pc, clockHeld := ck, irqPending := irq, tx := tx,
                                        txPending := txp, freeCount := n } := by
  have frame := dispatch_frame s code v
  refine ⟨?_, frame.chan, dispatch_settings s code v, hirq, hboth⟩
  rw [frame.state]

/-- Writes to the front-end's own fields alone are within the bus agent's frame, when the front-end is left
consistent. -/
theorem busFrame_front {s : State} {pc tx : Byte} {ck irq txp : Bool} {n : Nat}
    (hirq : s.irqPending = s.txPending → irq = txp) (hboth : ¬ (txp = true ∧ ck = true)) :
    BusFrame s { s with pendingCommand := pc, clockHeld := ck, irqPending := irq, tx := tx, txPending := txp,
                        freeCount := n } :=
  ⟨rfl, fun _ => rfl, .inl rfl, hirq, hboth⟩

/-- An enabled bus event keeps the bus agent's frame, whatever its arm (R33). -/
theorem busFrame_busEvent {s : State} (h : BusReady s) (o a w : Bool) (rx : Byte) :
    BusFrame s (busEvent o a w rx s) := by
  obtain ⟨-, htx, -⟩ := h
  match o, a, w with
  | true, a, w => rw [busEvent_error]; exact busFrame_front (fun _ => htx.symm) (by simp)
  | false, true, true => rw [busEvent_addressWrite]; exact busFrame_front (fun _ => htx.symm) (by simp)
  | false, true, false => rw [busEvent_addressRead]; exact busFrame_front (fun _ => htx.symm) (by simp [htx])
  | false, false, true =>
    by_cases hp : s.pendingCommand = 0
    · rw [busEvent_latch rx hp]
      exact busFrame_front (fun _ => htx.symm) (by simp)
    · rw [busEvent_dispatch rx hp]
      have frame := (dispatch_frame s s.pendingCommand rx).state
      exact busFrame_dispatch _ _ (fun _ => by rw [frame]; exact htx.symm) (by simp)
  | false, false, false =>
    cases hv : readValue (selectionOf rx) s with
    | none => rw [busEvent_sendFree hv]; exact busFrame_front (fun _ => rfl) (by simp)
    | some b => rw [busEvent_send hv]; exact busFrame_front (fun _ => rfl) (by simp)

/-- Every operation of the table that is no tick is an enabled operation of the bus agent, within its frame (R33). -/
theorem exec_bus_next {i : Instr} {s t : State} (hi : isTick i = false) (h : exec i s = .next t) :
    BusReady s ∧ BusFrame s t := by
  have front : ∀ tx, onBus s (s.returnByte tx) = .next t → BusReady s ∧ BusFrame s t := by
    intro tx h
    obtain ⟨hs, rfl⟩ := onBus_next.1 h
    exact ⟨hs, busFrame_front id (by simp [hs.2.1])⟩
  cases hcmd : isCommand i with
  | true =>
    have hs : BusReady s := by
      cases i with
      | readLeft | readRight | readSettings | readSpeed | tick | busevent => cases hcmd
      | _ v => exact (onBus_next.1 h).1
    obtain ⟨code, v, hexec⟩ := exec_command hs.1 hcmd
    rw [hexec] at h
    obtain ⟨-, rfl⟩ := onBus_next.1 h
    exact ⟨hs, (dispatch_frame s code v).busFrame hs (dispatch_settings s code v)⟩
  | false =>
    cases i with
    | busevent o a w rx =>
      obtain ⟨hs, rfl⟩ := onBus_next.1 h
      exact ⟨hs, busFrame_busEvent hs o a w rx⟩
    | readLeft w => exact front _ h
    | readRight w => exact front _ h
    | readSettings w => exact front _ h
    | readSpeed w => exact front _ h
    | tick => cases hi
    | _ => cases hcmd

/-- The pair `[0][v]` latches `v`, whatever was latched before (R62). -/
theorem execCommandZero_eq (v : Byte) (s : State) : execCommandZero v s = onBus s { s with pendingCommand := v } := rfl

/-- A word that is no row of the code map runs as an enabled operation of the bus agent, within its frame. -/
theorem runUndecoded_next {e : DecodeError} {s t : State} (h : runUndecoded e s = .next t) :
    BusReady s ∧ BusFrame s t := by
  cases e with
  | unknownCommand code v =>
    obtain ⟨hs, rfl⟩ := onBus_next.1 h
    exact ⟨hs, busFrame_front id (by simp [hs.2.1])⟩
  | commandZero v =>
    rw [runUndecoded, execCommandZero_eq] at h
    obtain ⟨hs, rfl⟩ := onBus_next.1 h
    exact ⟨hs, busFrame_front id (by simp [hs.2.1])⟩
  | unknownSelection sel =>
    obtain ⟨hs, rfl⟩ := onBus_next.1 h
    exact ⟨hs, busFrame_front id (by simp [hs.2.1])⟩

/-- What one step can do, said once: nothing is due; RESET; the end of a read's wait; a tick; or an operation of the bus
agent within its frame. -/
inductive StepKind (s t : State) : Prop where
  | idle (h : t = s)
  | reset (rest : List Input) (hinputs : s.inputs = .reset :: rest)
      (h : t = { State.resetOf s.cfg with inputs := rest, freeCount := s.freeCount })
  | byteTaken (rest : List Input)
      (h : t = if s.txPending then { s with inputs := rest, txPending := false, irqPending := false }
        else { s with inputs := rest })
  | tick (cnt : Byte) (rest : List Input) (h : exec (.tick cnt) { s with inputs := rest } = .next t)
  | bus (rest : List Input) (ready : BusReady s) (frame : BusFrame { s with inputs := rest } t)

/-- An operation of the table, run with its event taken off the list, is a tick or the bus agent's. -/
theorem stepKind_of_exec {i : Instr} {s t : State} {rest : List Input}
    (h : exec i { s with inputs := rest } = .next t) : StepKind s t := by
  cases htick : isTick i with
  | true =>
    cases i with
    | tick cnt => exact .tick cnt rest h
    | _ => cases htick
  | false =>
    obtain ⟨ready, frame⟩ := exec_bus_next htick h
    exact .bus rest ready frame

/-- Every step that answers a next state is of one of the five kinds. -/
theorem step_kind {s t : State} (h : step s = .next t) : StepKind s t := by
  cases hin : s.inputs with
  | nil =>
    rw [step_nil hin] at h
    exact .idle (Host.Outcome.next.inj (guardCfg_next.1 h).2).symm
  | cons e rest =>
    rw [step_cons hin] at h
    cases e with
    | wire w =>
      change runWire w _ = _ at h
      unfold runWire at h
      split at h
      · exact stepKind_of_exec h
      · obtain ⟨ready, frame⟩ := runUndecoded_next h
        exact .bus rest ready frame
    | readMore =>
      obtain ⟨ready, rfl⟩ := onBus_next.1 h
      exact .bus rest ready (busFrame_front (fun _ => rfl) (by simp))
    | byteTaken => exact .byteTaken rest (Host.Outcome.next.inj (guardCfg_next.1 h).2).symm
    | reset => exact .reset rest hin (Host.Outcome.next.inj (guardCfg_next.1 h).2).symm

end Sys2Proof.Machine

/-! A tick on one channel, seen from the state: the duty pin of a Servo channel (R108), a channel that is not processed
(R111), the divider (R112) and the order of the writes (R105, R113, R141). -/

namespace Sys2Proof.Machine

open Sys2Proof.Safety

/-- The refresh count moves modulo the servo's divider (R108). -/
theorem servoAdvance_toNat {n : Byte} (h : n.toNat ≤ 19) : (servoAdvance n).toNat = (n.toNat + 1) % 20 := by
  have hn : (n + 1).toNat = n.toNat + 1 := by rw [BitVec.toNat_add]; simp; omega
  have hdiv : n + 1 = servoDiv ↔ n.toNat + 1 = 20 := by
    rw [← BitVec.toNat_inj, hn]; rfl
  unfold servoAdvance
  split_ifs with heq
  · rw [hdiv.1 heq]; rfl
  · have := mt hdiv.2 heq
    omega

section Tick

variable {cnt : Byte} {s : State} {r : ChIdx → ChanStep} (hI : Inv s)
  (hr : ∀ j, tickChannel s.cfg s.globalEnable s.globalPause cnt (s.chan j) = some (r j))

include hI hr

/-- A tick on a processed Servo channel: the window, its count, the writes to the duty pin and the pin's level
(R108). -/
theorem afterTick_servo {i : ChIdx} (hp : Processed s i) (hservo : (s.chan i).motorType = .servo) :
    let on := decide (cnt.toNat < (s.chan i).duty.toNat)
    let opens := on && !(s.chan i).outputLevel
    let closes := !on && (s.chan i).outputLevel
    let n := (s.chan i).servoRefreshCount.toNat
    let p := (s.chan i).dutyPin
    (r i).chan.outputLevel = on ∧ (r i).chan.servoRefreshCount.toNat = (if opens then (n + 1) % 20 else n) ∧
      (afterTick s r).trace.filter (·.1 = p) = s.trace.filter (·.1 = p) ++
        (if opens then (if n = 0 then [(p, .high)] else []) else if closes then [(p, .low)] else []) ∧
      (afterTick s r).pin p =
        if opens then (if n = 0 then .high else s.pin p) else if closes then .low else s.pin p := by
  intro on opens closes n p
  have hon : comparatorOn cnt (s.chan i).duty = on := comparatorOn_eq_decide _ _
  obtain ⟨hlevel, hcount, -⟩ := tickChannel_processed hp.2 (hp.1 ▸ hr i)
  obtain ⟨hcountServo, hwrites⟩ := outputDecision_servo (cnt := cnt) hservo
  obtain ⟨htrace, hpin⟩ := afterTick_dutyPin hI hr i
  have hrange := (hI.channels i).servoRange
  have hzero : (s.chan i).servoRefreshCount = 0 ↔ n = 0 := by rw [← BitVec.toNat_inj]; rfl
  rw [tickChannel_processed_dutyPin hI hp (hr i), hwrites, hon] at htrace hpin
  simp only [hzero] at htrace hpin
  rw [hcount, hcountServo, htrace, hpin, hlevel, hon]
  refine ⟨rfl, ?_⟩
  by_cases hsame : on = (s.chan i).outputLevel
  · simp [opens, closes, ← hsame, n, p, State.pin, latchSetAll]
  · cases hb : on with
    | true =>
      have ho : (s.chan i).outputLevel = false := by simpa [hb] using hsame
      by_cases hn : n = 0 <;>
        simp [opens, hb, ho, hn, n, p, State.pin, latchSetAll, latchGet_set_same, servoAdvance_toNat hrange]
    | false =>
      have ho : (s.chan i).outputLevel = true := by simpa [hb] using hsame
      simp [opens, closes, hb, ho, n, p, latchSetAll, latchGet_set_same]

end Tick

/-- A channel that is marked off has its duty pin low, whatever its motor type (R24 (a), (b)). -/
theorem pin_low_of_off {s : State} (hI : Inv s) {i : ChIdx} (hoff : (s.chan i).outputLevel = false) :
    s.pin (s.chan i).dutyPin = .low := by
  have notHigh : s.pin (s.chan i).dutyPin ≠ .high := fun high => by
    cases hm : (s.chan i).motorType with
    | dc => simp [((hI.channels i).dcPin hm).1 high] at hoff
    | servo => simp [(hI.channels i).servoPin hm high] at hoff
  cases hl : s.pin (s.chan i).dutyPin with
  | low => rfl
  | high => exact absurd hl notHigh

/-- The share of a channel that is not processed: forced low if it is marked on, otherwise left alone (R106, R111). -/
theorem tickChannel_unprocessed {cfg : Config} {ge gp : Bool} {cnt : Byte} {c : Channel} {r : ChanStep}
    (hp : ¬ (ge = true ∧ c.enabled = true)) (h : tickChannel cfg ge gp cnt c = some r) :
    r.chan = (if c.outputLevel then
        { c with outputLevel := false, servoRefreshCount := 0, accelStepCount := 0 } else c) ∧
      dutyWrites ge cnt c = if c.outputLevel then [(c.dutyPin, .low)] else [] := by
  have hge : ¬ (ge && c.enabled) = true := by rwa [Bool.and_eq_true]
  rw [dutyWrites, if_neg hge]
  rcases tickChannel_cases h with ⟨hg, he, -⟩ | ⟨-, ho, rfl⟩ | ⟨-, ho, rfl⟩
  · exact absurd ⟨hg, he⟩ hp
  · simp [ho, forceLow]
  · simp [ho]

/-- The divider of a processed channel: below the threshold it counts and the ramp waits, at or above it starts again
(R112). -/
theorem tickChannel_divider {cfg : Config} {gp : Bool} {cnt : Byte} {c : Channel} {r : ChanStep}
    (he : c.enabled = true) (h : tickChannel cfg true gp cnt c = some r) :
    (c.accelStepCount < c.accelRate →
      r.chan.accelStepCount = c.accelStepCount + 1 ∧ r.chan.duty = c.duty ∧ r.chan.direction = c.direction) ∧
    (c.accelRate ≤ c.accelStepCount → r.chan.accelStepCount = 0) := by
  constructor
  · intro hlt
    rw [tickChannel_counting he hlt, Option.some_inj] at h
    subst h
    refine ⟨rfl, ?_, ?_⟩ <;> (simp only; rw [outputDecision_chan])
  · intro hle
    rw [tickChannel_ramping he hle] at h
    obtain ⟨q, -, rfl⟩ := Option.map_eq_some_iff.1 h
    rfl

/-- The Stop arm in a channel's share: the duty ramps towards 0, and the direction is taken over when it ends there
(R126, R140). -/
theorem tickChannel_stopping {cfg : Config} {gp : Bool} {cnt : Byte} {c : Channel} {r : ChanStep}
    (he : c.enabled = true) (hdue : c.accelRate ≤ c.accelStepCount) (hstop : stopCondition gp c = true)
    (h : tickChannel cfg true gp cnt c = some r) :
    ∃ p, profileOf cfg c.accelType = some p ∧ r.chan.duty = stopDuty cfg p c ∧
      r.chan.direction =
        if stopDuty cfg p c = 0 ∧ c.direction ≠ c.targetDirection then c.targetDirection else c.direction := by
  rw [tickChannel_ramping he hdue] at h
  obtain ⟨q, hq, rfl⟩ := Option.map_eq_some_iff.1 h
  rcases ramp_cases hq with ⟨p, hp, -, hkeep, rfl⟩ | ⟨p, hp, -, hzero, hdir, rfl⟩ | ⟨p, -, hgo, -⟩ | ⟨hgo, -⟩
  · exact ⟨p, hp, rfl, (if_neg hkeep).symm⟩
  · exact ⟨p, hp, hzero.symm, (if_pos ⟨hzero, hdir⟩).symm⟩
  · simp [hgo] at hstop
  · simp [hgo] at hstop

/-- The Accelerate arm in a channel's share: the duty ramps towards the effective target, the direction stays (R127). -/
theorem tickChannel_accelerating {cfg : Config} {gp : Bool} {cnt : Byte} {c : Channel} {r : ChanStep}
    (he : c.enabled = true) (hdue : c.accelRate ≤ c.accelStepCount) (hgo : ¬ stopCondition gp c = true)
    (hduty : c.duty ≠ c.target) (h : tickChannel cfg true gp cnt c = some r) :
    ∃ p, profileOf cfg c.accelType = some p ∧ r.chan.duty = accelerateDuty cfg p c ∧
      r.chan.direction = c.direction := by
  rw [tickChannel_ramping he hdue] at h
  obtain ⟨q, hq, rfl⟩ := Option.map_eq_some_iff.1 h
  rcases ramp_cases hq with ⟨p, -, hstop, -⟩ | ⟨p, -, hstop, -⟩ | ⟨p, hp, -, -, rfl⟩ | ⟨-, heq, -⟩
  · exact absurd hstop hgo
  · exact absurd hstop hgo
  · exact ⟨p, hp, rfl, rfl⟩
  · exact absurd heq hduty

/-- The effective target as a number: 0 below the floor (R128). -/
theorem effectiveTarget_toNat (c : Channel) :
    (effectiveTarget c).toNat = if c.target.toNat < c.minimumDuty.toNat then 0 else c.target.toNat := by
  unfold effectiveTarget
  rw [apply_ite BitVec.toNat]
  rfl

/-- The direction pins' part of a share is fixed by the record it ends with: it drives the pins exactly when the
direction was taken over. -/
theorem KeepsOrFlips.eq_of {c c' : Channel} {f : List (Pin × Level)} (h : KeepsOrFlips c c' f)
    (hf : c'.forwardPin = c.forwardPin) (hr : c'.reversePin = c.reversePin) :
    f = if c'.direction ≠ c.direction then
        (if c.targetDirection then [(c.forwardPin, .low), (c.reversePin, .high)]
         else [(c.reversePin, .low), (c.forwardPin, .high)])
      else [] := by
  rcases h with ⟨rfl, hkeep⟩ | ⟨rfl, -, htaken, hne⟩
  · rw [if_neg (not_not.2 hkeep)]
  · rw [if_pos (htaken ▸ hne.symm), driveDirectionPins_eq, htaken, hf, hr]

/-- A channel's share is refused exactly when its `RAMP` selects an arm with an undecodable profile (R145). -/
theorem tickChannel_isSome (cfg : Config) (ge gp : Bool) (cnt : Byte) (c : Channel) :
    (tickChannel cfg ge gp cnt c).isSome = true ↔
      ((ge = true ∧ c.enabled = true) ∧ c.accelRate ≤ c.accelStepCount →
        (stopCondition gp c = true ∨ c.duty ≠ c.target) → Decodable cfg c.accelType) := by
  by_cases hp : ge = true ∧ c.enabled = true
  · obtain ⟨rfl, he⟩ := hp
    by_cases hle : c.accelRate ≤ c.accelStepCount
    · rw [tickChannel_ramping he hle, Option.isSome_map, ramp_isSome]
      simp [he, hle]
    · rw [tickChannel_counting he (BitVec.not_le.1 hle)]
      simp [hle]
  · have hge : ¬ (ge && c.enabled) = true := by rwa [Bool.and_eq_true]
    unfold tickChannel
    rw [if_neg hge]
    cases c.outputLevel <;> simp [hp]

/-- A tick finds decodable profiles exactly when every channel has a share (R145). -/
theorem tickDecodable_iff (s : State) (cnt : Byte) :
    TickDecodable s ↔
      ∀ i, (tickChannel s.cfg s.globalEnable s.globalPause cnt (s.chan i)).isSome = true := by
  simp only [tickChannel_isSome, stopCondition_iff_stopping]

/-- A tick on one channel completes or is refused for its profile. -/
theorem tickOne_cases (cnt : Byte) (i : ChIdx) (s : State) :
    (∃ t, tickOne cnt i s = .next t) ∨ tickOne cnt i s = .refused .undecodableProfile := by
  cases h : tickChannel s.cfg s.globalEnable s.globalPause cnt (s.chan i) with
  | none => exact .inr (tickOne_none h)
  | some r => exact .inl ⟨_, tickOne_eq h⟩

/-- Two parts that complete or are refused for a profile do so in sequence. -/
theorem andThen_cases {r : Result} {k : State → Result}
    (hr : (∃ t, r = .next t) ∨ r = .refused .undecodableProfile)
    (hk : ∀ s, (∃ t, k s = .next t) ∨ k s = .refused .undecodableProfile) :
    (∃ t, andThen r k = .next t) ∨ andThen r k = .refused .undecodableProfile := by
  rcases hr with ⟨t, rfl⟩ | rfl
  · exact hk t
  · exact .inr rfl

/-- A tick's scan completes or is refused for a profile (R145, log 11). -/
theorem tickAll_cases (cnt : Byte) (s : State) :
    (∃ t, tickAll cnt s = .next t) ∨ tickAll cnt s = .refused .undecodableProfile :=
  andThen_cases (andThen_cases (andThen_cases (tickOne_cases cnt 0 s) (tickOne_cases cnt 1)) (tickOne_cases cnt 2))
    (tickOne_cases cnt 3)

/-- An enabled tick that finds decodable profiles completes (R105). -/
theorem exec_tick_completes {s : State} (cnt : Byte) (hready : TickReady s) (hdec : TickDecodable s) :
    ∃ t, exec (.tick cnt) s = .next t := by
  choose r hr using fun i => Option.isSome_iff_exists.1 ((tickDecodable_iff s cnt).1 hdec i)
  exact ⟨_, (onTick_ready _ hready).trans (tickAll_eq hr)⟩

/-- What a completed tick leaves alone (R33). -/
theorem exec_tick_frame {cnt : Byte} {s t : State} (h : exec (.tick cnt) s = .next t) :
    t = { s with ch := t.ch, pins := t.pins, trace := t.trace } ∧
      ∀ i, t.chan i =
        { s.chan i with
          duty := (t.chan i).duty, direction := (t.chan i).direction, outputLevel := (t.chan i).outputLevel
          servoRefreshCount := (t.chan i).servoRefreshCount, accelStepCount := (t.chan i).accelStepCount } := by
  obtain ⟨r, hr, rfl⟩ := exec_tick_next h
  refine ⟨afterTick_frame s r, fun i => ?_⟩
  rw [afterTick_chan]
  exact tickChannel_frame (hr i)

end Sys2Proof.Machine

namespace Sys2Proof.Proofs

open Sys2Proof.Machine Sys2Proof.Safety

/-- Settles O33: every channel has a share, and the state made of the shares is the frame. -/
theorem tickCompletes : Obligations.TickCompletes := by
  intro s cnt hready hdec
  obtain ⟨t, ht⟩ := exec_tick_completes cnt hready hdec
  exact ⟨t, ht, exec_tick_frame ht⟩

/-- Settles O34: a scan that completed would have given every channel a share. -/
theorem undecodableProfileIsRefused : Obligations.UndecodableProfileIsRefused := by
  intro s cnt hready hundec
  refine (onTick_ready _ hready).trans ((tickAll_cases cnt s).resolve_left ?_)
  rintro ⟨t, ht⟩
  obtain ⟨r, hr, -⟩ := tickAll_next ht
  exact hundec ((tickDecodable_iff s cnt).2 fun i => by rw [hr i]; rfl)

/-- Settles O36: the share of a processed Servo channel is its output decision on the window. -/
theorem servoWindowCountsAndPulses : Obligations.ServoWindowCountsAndPulses := by
  intro s t cnt i hI hexec hp hservo on opens n p
  obtain ⟨r, hr, rfl⟩ := exec_tick_next hexec
  obtain ⟨hlevel, hcount, htrace, -⟩ := afterTick_servo hI hr hp hservo
  rw [afterTick_chan]
  exact ⟨hlevel, hcount, htrace⟩

/-- Settles O37: the share of a channel that is not processed forces its pin low where it is marked on; where it is not,
the pin is low already. -/
theorem unprocessedChannelIsForcedLowOnce : Obligations.UnprocessedChannelIsForcedLowOnce := by
  intro s t cnt i hI hexec hp p
  obtain ⟨r, hr, rfl⟩ := exec_tick_next hexec
  obtain ⟨hchan, hduty⟩ := tickChannel_unprocessed hp (hr i)
  obtain ⟨htrace, hpin⟩ := afterTick_dutyWrites hI hr i
  rw [hduty] at htrace hpin
  refine ⟨by rw [afterTick_chan, hchan], hpin.trans ?_, htrace⟩
  cases ho : (s.chan i).outputLevel with
  | true => exact latchGet_set_same _ _ _
  | false => exact pin_low_of_off hI ho

/-- Settles O38: the two cases of the divider; below the threshold the count has room for one more. -/
theorem dividerCountsToItsThreshold : Obligations.DividerCountsToItsThreshold := by
  intro s t cnt i hexec hp
  obtain ⟨r, hr, rfl⟩ := exec_tick_next hexec
  obtain ⟨counting, reached⟩ := tickChannel_divider hp.2 (hp.1 ▸ hr i)
  rw [afterTick_chan]
  refine ⟨?_, fun hlt => (counting hlt).2⟩
  split_ifs with hle
  · rw [reached hle]; rfl
  · have hroom := (s.chan i).accelRate.isLt
    rw [(counting (not_le.1 hle)).1, BitVec.toNat_add]
    simp
    omega

/-- Settles O39: each channel's share is its duty pin's writes and then its direction pins'. -/
theorem tickWritesPinsInOrder : Obligations.TickWritesPinsInOrder := by
  intro s t cnt hexec
  obtain ⟨r, hr, rfl⟩ := exec_tick_next hexec
  choose f hws hf using fun i => tickChannel_writes (hr i)
  refine ⟨fun i => dutyWrites s.globalEnable cnt (s.chan i), f, ?_, ?_, fun i => ⟨dutyWrites_once _ _ _, ?_⟩⟩
  · rw [afterTick, State.writePins_trace]
    simp only [hws, List.append_assoc]
  · rw [afterTick, State.writePins_pins]
    simp only [hws]
  · obtain ⟨-, hfwd, hrev, -⟩ := tickChannel_pins (hr i)
    rw [(hf i).eq_of hfwd hrev]
    split_ifs <;> simp

/-- Settles O40: the Stop arm's share, whose direction pins are driven exactly when the direction was taken over. -/
theorem stopArmRampsDownAndFlips : Obligations.StopArmRampsDownAndFlips := by
  intro s t cnt i hI hexec hdue hstop c c' flips
  obtain ⟨r, hr, rfl⟩ := exec_tick_next hexec
  obtain ⟨⟨hge, he⟩, hreached⟩ := hdue
  have hstop' := (stopCondition_iff_stopping s i).2 hstop
  obtain ⟨p, hp, hduty, hdir⟩ := tickChannel_stopping he hreached hstop' (hge ▸ hr i)
  obtain ⟨f, hf, htrace, -⟩ := afterTick_directionPins hI hr i
  obtain ⟨-, hfwd, hrev, -⟩ := tickChannel_pins (hr i)
  have hc' : c' = (r i).chan := afterTick_chan s r i
  have hflips : flips = decide (stopDuty s.cfg p c = 0 ∧ c.direction ≠ c.targetDirection) := by
    simp only [flips, hc', hduty, c]
  have hturn : (r i).chan.direction ≠ (s.chan i).direction ↔ flips = true := by
    rw [hflips, decide_eq_true_eq, hdir]
    split_ifs with hflip
    · exact ⟨fun _ => hflip, fun h => h.2.symm⟩
    · exact ⟨fun h => absurd rfl h, fun h => absurd h hflip⟩
  refine ⟨⟨p, hp, by rw [hc', hduty, stopDuty_toNat]⟩, ?_, ?_⟩
  · rw [hc', hdir, hflips]
    simp only [decide_eq_true_eq, c]
  · rw [htrace, hf.eq_of hfwd hrev, if_congr hturn rfl rfl]

/-- Settles O41: the Accelerate arm's share keeps the direction, so it drives no direction pin. -/
theorem accelerateArmRampsToTheEffectiveTarget : Obligations.AccelerateArmRampsToTheEffectiveTarget := by
  intro s t cnt i hI hexec hdue hgo hne c te
  obtain ⟨r, hr, rfl⟩ := exec_tick_next hexec
  obtain ⟨⟨hge, he⟩, hreached⟩ := hdue
  have hgo' := mt (stopCondition_iff_stopping s i).1 hgo
  obtain ⟨p, hp, hduty, hdir⟩ := tickChannel_accelerating he hreached hgo' hne (hge ▸ hr i)
  obtain ⟨f, hf, htrace, -⟩ := afterTick_directionPins hI hr i
  obtain ⟨-, hfwd, hrev, -⟩ := tickChannel_pins (hr i)
  rw [afterTick_chan]
  refine ⟨⟨p, hp, ?_⟩, hdir, ?_⟩
  · rw [hduty, accelerateDuty_toNat, effectiveTarget_toNat]
  · rw [htrace, hf.eq_of hfwd hrev, if_neg (not_not.2 hdir), List.append_nil]

end Sys2Proof.Proofs

/-! The invariant (R23, R24): at reset, and over each kind of step. -/

namespace Sys2Proof.Machine

open Sys2Proof.Safety

/-! ### Reset -/

/-- A pin that is given a level once holds it after all the writes. -/
theorem latchGet_setAll_mem {ls : Latches} {ws : List (Pin × Level)} {p : Pin} {l : Level}
    (hn : (ws.map Prod.fst).Nodup) (h : (p, l) ∈ ws) : latchGet (latchSetAll ls ws) p = l := by
  induction ws generalizing ls with
  | nil => cases h
  | cons w rest ih =>
    rw [List.map_cons, List.nodup_cons] at hn
    obtain ⟨hnot, hrest⟩ := hn
    rcases List.mem_cons.1 h with rfl | h
    · rw [latchSetAll, latchGet_setAll_other _ _ _ fun w hw (e : w.1 = p) => hnot (List.mem_map.2 ⟨w, hw, e⟩),
        latchGet_set_same]
    · exact ih hrest h

/-- The pins given a level at reset are the configuration's twelve (R35). -/
theorem pinsAtReset_keys (cfg : Config) : (pinsAtReset cfg).map Prod.fst = cfg.allPins := rfl

/-- The levels at reset: duty low, forward high, reverse low (R35). -/
theorem resetOf_pin {cfg : Config} (h : cfg.wf = true) (i : ChIdx) :
    (State.resetOf cfg).pin (cfg.pinDuty.get i) = .low ∧ (State.resetOf cfg).pin (cfg.pinFwd.get i) = .high ∧
      (State.resetOf cfg).pin (cfg.pinRev.get i) = .low := by
  have level : ∀ {p l}, (p, l) ∈ pinsAtReset cfg → (State.resetOf cfg).pin p = l := fun hmem =>
    latchGet_setAll_mem (by rw [pinsAtReset_keys]; exact Config.pins_nodup h) hmem
  have mem : ∀ q : Quad Pin, q.get i ∈ q.toList := fun q => (Quad.mem_toList q _).2 ⟨i, rfl⟩
  refine ⟨level ?_, level ?_, level ?_⟩ <;> simp [pinsAtReset, mem]

/-- The invariant of a channel record right after reset (R10, R34, R35). -/
theorem channelInv_resetOf {cfg : Config} (h : cfg.wf = true) (i : ChIdx) : ChannelInv (State.resetOf cfg) i := by
  obtain ⟨duty, fwd, rev⟩ := resetOf_pin h i
  constructor <;> rw [Channel.resetOf_chan]
  case dutyPin | forwardPin | reversePin | motorType => rfl
  case dcPin => exact fun _ => by simp [Channel.resetOf, duty]
  case servoPin => exact fun _ hp => by simp [Channel.resetOf, duty] at hp
  case servoRange => exact Nat.zero_le _
  case dcCount => exact fun _ => rfl
  case forwardLevel => exact fwd
  case reverseLevel => exact rev

/-- The invariant holds right after reset under every well-formed configuration. -/
theorem inv_resetOf {cfg : Config} (h : cfg.wf = true) : Inv (State.resetOf cfg) where
  cfgWf := h
  channels := channelInv_resetOf h
  latchesWf := latchSetAll_wf List.Pairwise.nil _
  latchesTrace := rfl
  ownPins := by simp [State.resetOf]
  settingsBits := BitVec.zero_and
  waiting := rfl
  notBoth := by simp [State.resetOf]

/-! ### What the invariant does not look at -/

/-- The invariant of a channel reads the configuration, the latches and that channel's record only. -/
theorem channelInv_congr {s t : State} {i : ChIdx} (h : ChannelInv s i) (hcfg : t.cfg = s.cfg) (hpins : t.pins = s.pins)
    (hchan : t.chan i =
      { s.chan i with
        target := (t.chan i).target, targetDirection := (t.chan i).targetDirection, enabled := (t.chan i).enabled
        paused := (t.chan i).paused, accelType := (t.chan i).accelType, accelRate := (t.chan i).accelRate
        minimumDuty := (t.chan i).minimumDuty }) : ChannelInv t i := by
  have hpin : t.pin = s.pin := by funext p; rw [State.pin, hpins, State.pin]
  constructor <;> rw [hchan]
  case dutyPin => rw [hcfg]; exact h.dutyPin
  case forwardPin => rw [hcfg]; exact h.forwardPin
  case reversePin => rw [hcfg]; exact h.reversePin
  case motorType => rw [hcfg]; exact h.motorType
  case dcPin => rw [hpin]; exact h.dcPin
  case servoPin => rw [hpin]; exact h.servoPin
  case servoRange => exact h.servoRange
  case dcCount => exact h.dcCount
  case forwardLevel => rw [hpin]; exact h.forwardLevel
  case reverseLevel => rw [hpin]; exact h.reverseLevel

/-- The invariant does not read the environment's list. -/
theorem inv_withInputs {s : State} (h : Inv s) (rest : List Input) : Inv { s with inputs := rest } where
  cfgWf := h.cfgWf
  channels i := channelInv_congr (h.channels i) rfl rfl rfl
  latchesWf := h.latchesWf
  latchesTrace := h.latchesTrace
  ownPins := h.ownPins
  settingsBits := h.settingsBits
  waiting := h.waiting
  notBoth := h.notBoth

/-! ### The bus agent -/

/-- The settings byte that SETTINGS stores has only the two masks' bits (R27, R89). -/
theorem settingsField_bits (cfg : Config) (v : Byte) :
    settingsField cfg v &&& ~~~(cfg.enableMask ||| cfg.accelTypeMask) = 0 := by
  rw [settingsField, BitVec.and_assoc, BitVec.and_not_self]
  exact BitVec.and_zero

/-- An operation of the bus agent keeps the invariant. -/
theorem BusFrame.inv {s t : State} (frame : BusFrame s t) (h : Inv s) : Inv t := by
  have hcfg : t.cfg = s.cfg := by rw [frame.state]
  have hpins : t.pins = s.pins := by rw [frame.state]
  have htrace : t.trace = s.trace := by rw [frame.state]
  constructor
  case cfgWf => rw [hcfg]; exact h.cfgWf
  case channels => exact fun i => channelInv_congr (h.channels i) hcfg hpins (frame.chan i)
  case latchesWf => rw [hpins]; exact h.latchesWf
  case latchesTrace => rw [hpins, htrace, hcfg]; exact h.latchesTrace
  case ownPins => rw [htrace, hcfg]; exact h.ownPins
  case settingsBits =>
    rw [hcfg]
    rcases frame.settings with e | ⟨b, e⟩ <;> rw [e]
    · exact h.settingsBits
    · exact settingsField_bits _ b
  case waiting => exact frame.waiting h.waiting
  case notBoth => exact frame.notBoth

/-! ### The tick agent -/

/-- Driving the direction pins leaves them as the direction says (R141). -/
theorem driveDirectionPins_levels (ls : Latches) {c : Channel} (hne : c.forwardPin ≠ c.reversePin) :
    latchGet (latchSetAll ls (driveDirectionPins c)) c.forwardPin = (if c.direction then .low else .high) ∧
      latchGet (latchSetAll ls (driveDirectionPins c)) c.reversePin = if c.direction then .high else .low := by
  rw [driveDirectionPins_eq]
  cases c.direction <;> simp [latchSetAll, latchGet_set, hne, hne.symm]

/-- A tick keeps the direction pins at the direction (R24 (e)). -/
theorem afterTick_directionLevels {cnt : Byte} {s : State} {r : ChIdx → ChanStep} (hI : Inv s)
    (hr : ∀ j, tickChannel s.cfg s.globalEnable s.globalPause cnt (s.chan j) = some (r j)) (i : ChIdx) :
    (afterTick s r).pin (s.chan i).forwardPin = (if (r i).chan.direction then .low else .high) ∧
      (afterTick s r).pin (s.chan i).reversePin = if (r i).chan.direction then .high else .low := by
  obtain ⟨f, hf, -, hpin⟩ := afterTick_directionPins hI hr i
  obtain ⟨-, hfwd, hrev, -⟩ := tickChannel_pins (hr i)
  have hi := hI.channels i
  rw [hpin _ (.inl rfl), hpin _ (.inr rfl)]
  rcases hf with ⟨rfl, hkeep⟩ | ⟨rfl, -⟩
  · rw [hkeep]
    exact ⟨hi.forwardLevel, hi.reverseLevel⟩
  · obtain ⟨-, -, -, -, -, hne⟩ := Config.pin_facts hI.cfgWf i i
    rw [← hi.forwardPin, ← hi.reversePin, ← hfwd, ← hrev] at hne
    rw [← hfwd, ← hrev]
    exact driveDirectionPins_levels _ hne

/-- What R24 (a) to (d) say of a channel's output, with the level of its duty pin. -/
def OutputInv (c : Channel) (pin : Level) : Prop :=
  (c.motorType = .dc → (pin = .high ↔ c.outputLevel = true)) ∧
    (c.motorType = .servo → pin = .high → c.outputLevel = true) ∧
    c.servoRefreshCount.toNat ≤ 19 ∧ (c.motorType = .dc → c.servoRefreshCount = 0)

/-- A tick keeps R24 (a) to (d) on a channel that is not processed: its pin ends low. -/
theorem outputInv_unprocessed {cnt : Byte} {s t : State} {i : ChIdx} (hI : Inv s) (h : exec (.tick cnt) s = .next t)
    (hp : ¬ Processed s i) : OutputInv (t.chan i) (t.pin (s.chan i).dutyPin) := by
  obtain ⟨hchan, hlow, -⟩ := Proofs.unprocessedChannelIsForcedLowOnce s t cnt i hI h hp
  have hi := hI.channels i
  rw [hchan, hlow]
  cases ho : (s.chan i).outputLevel
  · exact ⟨by simp [ho], by simp, hi.servoRange, hi.dcCount⟩
  · exact ⟨by simp, by simp, by simp, fun _ => rfl⟩

/-- A tick keeps R24 (a) to (d) on a processed DC channel: the pin follows the comparator (R107). -/
theorem outputInv_dc {cnt : Byte} {s t : State} {i : ChIdx} (hI : Inv s) (h : exec (.tick cnt) s = .next t)
    (hp : Processed s i) (hdc : (s.chan i).motorType = .dc) : OutputInv (t.chan i) (t.pin (s.chan i).dutyPin) := by
  obtain ⟨hlevel, hpin, hcount, -⟩ := Proofs.dcPinFollowsTheComparator s t cnt i hI h hp hdc
  have hzero := (hI.channels i).dcCount hdc
  have hm : (t.chan i).motorType = .dc := by rw [(exec_tick_frame h).2 i]; exact hdc
  refine ⟨fun _ => ?_, fun hs => ?_, by rw [hcount, hzero]; exact Nat.zero_le _, fun _ => hcount.trans hzero⟩
  · rw [hpin, hlevel]
    split_ifs <;> simp_all
  · rw [hm] at hs
    cases hs

/-- A tick keeps R24 (a) to (d) on a processed Servo channel: the pin is high at most while the window is open
(R108). -/
theorem outputInv_servo {cnt : Byte} {s t : State} {i : ChIdx} (hI : Inv s) (h : exec (.tick cnt) s = .next t)
    (hp : Processed s i) (hservo : (s.chan i).motorType = .servo) :
    OutputInv (t.chan i) (t.pin (s.chan i).dutyPin) := by
  have hm : (t.chan i).motorType = .servo := by rw [(exec_tick_frame h).2 i]; exact hservo
  have hrange := (hI.channels i).servoRange
  have hold := (hI.channels i).servoPin hservo
  obtain ⟨r, hr, rfl⟩ := exec_tick_next h
  obtain ⟨hlevel, hcount, -, hpin⟩ := afterTick_servo hI hr hp hservo
  rw [afterTick_chan] at hm ⊢
  refine ⟨fun hd => ?_, fun _ hhigh => ?_, ?_, fun hd => ?_⟩
  · rw [hm] at hd; cases hd
  · rw [hlevel]
    rw [hpin] at hhigh
    split_ifs at hhigh with hopens hn hcloses
    · exact (Bool.and_eq_true_iff.1 hopens).1
    · exact (Bool.and_eq_true_iff.1 hopens).1
    · by_contra hoff
      exact hcloses (by simp [hold hhigh, hoff])
  · rw [hcount]
    split_ifs <;> omega
  · rw [hm] at hd; cases hd

/-- A tick keeps the invariant of every channel (R24). -/
theorem channelInv_tick {cnt : Byte} {s t : State} (hI : Inv s) (h : exec (.tick cnt) s = .next t) (i : ChIdx) :
    ChannelInv t i := by
  have hi := hI.channels i
  obtain ⟨hstate, hframe⟩ := exec_tick_frame h
  have hcfg : t.cfg = s.cfg := by rw [hstate]
  have hduty : (t.chan i).dutyPin = (s.chan i).dutyPin := by rw [hframe i]
  have hfwd : (t.chan i).forwardPin = (s.chan i).forwardPin := by rw [hframe i]
  have hrev : (t.chan i).reversePin = (s.chan i).reversePin := by rw [hframe i]
  have hmotor : (t.chan i).motorType = (s.chan i).motorType := by rw [hframe i]
  have hout : OutputInv (t.chan i) (t.pin (s.chan i).dutyPin) := by
    by_cases hp : Processed s i
    · cases hm : (s.chan i).motorType with
      | dc => exact outputInv_dc hI h hp hm
      | servo => exact outputInv_servo hI h hp hm
    · exact outputInv_unprocessed hI h hp
  obtain ⟨hdc, hservo, hrange, hzero⟩ := hout
  have hdirection : t.pin (s.chan i).forwardPin = (if (t.chan i).direction then .low else .high) ∧
      t.pin (s.chan i).reversePin = if (t.chan i).direction then .high else .low := by
    obtain ⟨r, hr, rfl⟩ := exec_tick_next h
    rw [afterTick_chan]
    exact afterTick_directionLevels hI hr i
  constructor
  case dutyPin => rw [hduty, hcfg]; exact hi.dutyPin
  case forwardPin => rw [hfwd, hcfg]; exact hi.forwardPin
  case reversePin => rw [hrev, hcfg]; exact hi.reversePin
  case motorType => rw [hmotor, hcfg]; exact hi.motorType
  case dcPin => rw [hduty]; exact hdc
  case servoPin => rw [hduty]; exact hservo
  case servoRange => exact hrange
  case dcCount => exact hzero
  case forwardLevel => rw [hfwd]; exact hdirection.1
  case reverseLevel => rw [hrev]; exact hdirection.2

/-- A channel's three pins are among the configuration's twelve (R11). -/
theorem pin_mem_allPins {s : State} (hI : Inv s) (i : ChIdx) {p : Pin}
    (hp : p = (s.chan i).dutyPin ∨ p = (s.chan i).forwardPin ∨ p = (s.chan i).reversePin) : p ∈ s.cfg.allPins := by
  have hi := hI.channels i
  have mem : ∀ q : Quad Pin, q.get i ∈ q.toList := fun q => (Quad.mem_toList q _).2 ⟨i, rfl⟩
  rw [hi.dutyPin, hi.forwardPin, hi.reversePin] at hp
  simp only [Config.allPins, List.mem_append]
  rcases hp with rfl | rfl | rfl
  · exact .inl (.inl (mem _))
  · exact .inl (.inr (mem _))
  · exact .inr (mem _)

/-- A completed tick makes some pin writes, of the block's own pins only, on the latches and the trace (R35, R43). -/
theorem exec_tick_writes {cnt : Byte} {s t : State} (hI : Inv s) (h : exec (.tick cnt) s = .next t) :
    ∃ ws : List (Pin × Level), t.pins = latchSetAll s.pins ws ∧ t.trace = s.trace ++ ws ∧
      ∀ w ∈ ws, w.1 ∈ s.cfg.allPins := by
  obtain ⟨r, hr, rfl⟩ := exec_tick_next h
  have own : ∀ j, ∀ w ∈ (r j).writes, w.1 ∈ s.cfg.allPins := fun j w hw =>
    pin_mem_allPins hI j (tickChannel_writes_own (hr j) w hw)
  refine ⟨_, State.writePins_pins _ _, State.writePins_trace _ _, fun w hw => ?_⟩
  simp only [List.mem_append] at hw
  rcases hw with ((hw | hw) | hw) | hw <;> exact own _ w hw

/-- A tick keeps the invariant. -/
theorem inv_tick {cnt : Byte} {s t : State} (hI : Inv s) (h : exec (.tick cnt) s = .next t) : Inv t := by
  have hstate := (exec_tick_frame h).1
  have hcfg : t.cfg = s.cfg := by rw [hstate]
  obtain ⟨ws, hpins, htrace, hown⟩ := exec_tick_writes hI h
  constructor
  case cfgWf => rw [hcfg]; exact hI.cfgWf
  case channels => exact channelInv_tick hI h
  case latchesWf => rw [hpins]; exact latchSetAll_wf hI.latchesWf ws
  case latchesTrace => rw [hpins, htrace, hcfg, latchSetAll_append, ← hI.latchesTrace]
  case ownPins =>
    intro w hw
    rw [hcfg]
    rw [htrace] at hw
    exact (List.mem_append.1 hw).elim (hI.ownPins w) (hown w)
  case settingsBits => rw [hstate]; exact hI.settingsBits
  case waiting => rw [hstate]; exact hI.waiting
  case notBoth => rw [hstate]; exact hI.notBoth

/-! ### Every step -/

/-- The end of a read's wait keeps the invariant (R77). -/
theorem inv_byteTaken {s : State} (hI : Inv s) (rest : List Input) :
    Inv (if s.txPending then { s with inputs := rest, txPending := false, irqPending := false }
      else { s with inputs := rest }) := by
  split_ifs
  · have frame : BusFrame { s with inputs := rest }
        { s with inputs := rest, txPending := false, irqPending := false } :=
      busFrame_front (fun _ => rfl) (by simp)
    exact frame.inv (inv_withInputs hI rest)
  · exact inv_withInputs hI rest

/-- Every kind of step keeps the invariant. -/
theorem StepKind.inv {s t : State} (k : StepKind s t) (hI : Inv s) : Inv t := by
  cases k with
  | idle h => exact h ▸ hI
  | reset rest hinputs h =>
    have frame : BusFrame { State.resetOf s.cfg with inputs := rest }
        { State.resetOf s.cfg with inputs := rest, freeCount := s.freeCount } :=
      busFrame_front id (by simp [State.resetOf])
    exact h ▸ frame.inv (inv_withInputs (inv_resetOf hI.cfgWf) rest)
  | byteTaken rest h => exact h ▸ inv_byteTaken hI rest
  | tick cnt rest h => exact inv_tick (inv_withInputs hI rest) h
  | bus rest ready frame => exact frame.inv (inv_withInputs hI rest)

end Sys2Proof.Machine

namespace Sys2Proof.Proofs

open Sys2Proof.Machine Sys2Proof.Safety

/-- Settles O55: one case per kind of step. -/
theorem everyStepKeepsTheInvariant : Obligations.EveryStepKeepsTheInvariant :=
  fun _ _ hI h => (step_kind h).inv hI

/-- Settles O56: the default configuration is well formed. -/
theorem invariantHoldsAfterReset : Obligations.InvariantHoldsAfterReset :=
  ⟨inv_resetOf (by decide), fun _ h => inv_resetOf h⟩

end Sys2Proof.Proofs

/-! The whole machine: the two agents' frames (R33), what no step changes, RESET, and the states in which an agent is
stuck or refused (R7, R78, R163). -/

namespace Sys2Proof.Machine

open Sys2Proof.Safety

/-- A command is no tick. -/
theorem isTick_of_isCommand {i : Instr} (h : isCommand i = true) : isTick i = false := by
  cases i with
  | tick => cases h
  | _ => rfl

/-- A completed command is the effect its code and value dispatch to (R85). -/
theorem exec_command_next {i : Instr} {s t : State} (hi : isCommand i = true) (h : exec i s = .next t) :
    BusReady s ∧ ∃ code v, t = dispatch code v s := by
  obtain ⟨hs, -⟩ := exec_bus_next (isTick_of_isCommand hi) h
  obtain ⟨code, v, hexec⟩ := exec_command hs.1 hi
  rw [hexec] at h
  exact ⟨hs, code, v, (onBus_next.1 h).2⟩

/-! ### RESET and ticks -/

/-- RESET under a well-formed configuration, in whatever state (R170, log 16). -/
theorem step_reset {s : State} {rest : List Input} (hw : s.cfg.wf = true) (h : s.inputs = .reset :: rest) :
    step s = .next { State.resetOf s.cfg with inputs := rest, freeCount := s.freeCount } :=
  (step_cons h).trans (guardCfg_next.2 ⟨hw, rfl⟩)

/-- The channel records right after reset: the four as the configuration gives them, the targets of left and right 0
(R10, R34). -/
theorem resetOf_targets (cfg : Config) (i : ChIdx) :
    ((i = cfg.leftIdx ∨ i = cfg.rightIdx) →
      (Channel.resetOf cfg i).target = 0 ∧ (Channel.resetOf cfg i).targetDirection = false) ∧
    (i ≠ cfg.leftIdx → i ≠ cfg.rightIdx →
      (Channel.resetOf cfg i).target = cfg.resetTarget.get i ∧
        (Channel.resetOf cfg i).targetDirection = cfg.resetTargetDirection.get i) := by
  refine ⟨fun h => ⟨if_pos h, if_pos h⟩, fun hl hr => ?_⟩
  have h : ¬ (i = cfg.leftIdx ∨ i = cfg.rightIdx) := fun h => h.elim hl hr
  exact ⟨if_neg h, if_neg h⟩

/-- A tick leaves a state alone in which no channel is processed and none is marked on (R106). -/
theorem exec_tick_nothing {s : State} (cnt : Byte) (hready : TickReady s) (hp : ∀ i, ¬ Processed s i)
    (hoff : ∀ i, (s.chan i).outputLevel = false) : exec (.tick cnt) s = .next s := by
  have share : ∀ i, tickChannel s.cfg s.globalEnable s.globalPause cnt (s.chan i) =
      some { chan := s.chan i, writes := [] } := by
    intro i
    have hge : ¬ (s.globalEnable && (s.chan i).enabled) = true := by rw [Bool.and_eq_true]; exact hp i
    rw [tickChannel, if_neg hge, if_neg (by simp [hoff i])]
  have same : afterTick s (fun i => { chan := s.chan i, writes := [] }) = s := by
    have hch : Quad.ofFn s.chan = s.ch := Quad.ext_get fun i => Quad.get_ofFn s.chan i
    simp only [afterTick, hch]
    rfl
  exact (onTick_ready _ hready).trans ((tickAll_eq share).trans (congrArg _ same))

/-- Ticks that leave a state alone leave it alone in a run. -/
theorem runSteps_ticks_nothing {s : State} (h : ∀ cnt, exec (.tick cnt) s = .next s) (cnts : List Byte) :
    runSteps cnts.length { s with inputs := cnts.map (fun c => .wire (.tk c)) } = .next { s with inputs := [] } := by
  induction cnts with
  | nil => rfl
  | cons c cs ih =>
    have hstep : step { s with inputs := (c :: cs).map (fun c => .wire (.tk c)) } =
        .next { s with inputs := cs.map (fun c => .wire (.tk c)) } := by
      rw [List.map_cons, step_tick, h c]
      rfl
    rw [List.length_cons, runSteps_next _ hstep]
    exact ih

/-! ### Stuck states and refusals -/

/-- Every operation of the table but a tick is an operation of the bus agent. -/
theorem exec_onBus {i : Instr} (hi : isTick i = false) (s : State) : ∃ t, exec i s = onBus s t := by
  cases i with
  | tick => cases hi
  | _ => exact ⟨_, rfl⟩

/-- A word that is no row of the code map runs as an operation of the bus agent (log 13). -/
theorem runUndecoded_onBus (e : DecodeError) (s : State) : ∃ t, runUndecoded e s = onBus s t := by
  cases e <;> exact ⟨_, rfl⟩

/-- A wire word that decodes runs as its operation. -/
theorem runWire_ok {w : Wire} {s : State} {i : Instr} (h : decode s.cfg w = .ok i) : runWire w s = exec i s := by
  unfold runWire
  simp only [h]

/-- A wire word that does not decode runs as the spec says of it (log 13). -/
theorem runWire_error {w : Wire} {s : State} {e : DecodeError} (h : decode s.cfg w = .error e) :
    runWire w s = runUndecoded e s := by
  unfold runWire
  simp only [h]

/-- Only a tick's word decodes to a tick (R58). -/
theorem isTick_of_decode {cfg : Config} {w : Wire} {i : Instr} (h : decode cfg w = .ok i) (hw : ∀ cnt, w ≠ .tk cnt) :
    isTick i = false := by
  cases i with
  | tick cnt => exact absurd (encode_of_decode h).symm (hw cnt)
  | _ => rfl

/-- Every wire word but a tick runs as an operation of the bus agent. -/
theorem runWire_onBus {w : Wire} (hw : ∀ cnt, w ≠ .tk cnt) (s : State) : ∃ t, runWire w s = onBus s t := by
  cases h : decode s.cfg w with
  | ok i => rw [runWire_ok h]; exact exec_onBus (isTick_of_decode h hw) s
  | error e => rw [runWire_error h]; exact runUndecoded_onBus e s

/-- With the clock held an operation of the bus agent is stuck (R78). -/
theorem onBus_held {s : State} (t : State) (hw : s.cfg.wf = true) (htx : s.txPending = false)
    (hck : s.clockHeld = true) : onBus s t = .fault .busHeld := by
  simp [onBus, guardCfg, hw, htx, hck]

/-- While a read waits an operation of the bus agent is stuck (R163). -/
theorem onBus_waiting {s : State} (t : State) (hw : s.cfg.wf = true) (htx : s.txPending = true) :
    onBus s t = .fault .readWait := by
  simp [onBus, guardCfg, hw, htx]

/-- While a read waits a tick is stuck (R163, R180). -/
theorem onTick_waiting {s : State} (r : Result) (hw : s.cfg.wf = true) (htx : s.txPending = true) :
    onTick s r = .fault .readWait := by
  simp [onTick, guardCfg, hw, htx]

/-- While a read waits every operation of the table is stuck (R163). -/
theorem exec_waiting (i : Instr) {s : State} (hw : s.cfg.wf = true) (htx : s.txPending = true) :
    exec i s = .fault .readWait := by
  cases hi : isTick i with
  | false =>
    obtain ⟨t, ht⟩ := exec_onBus hi s
    exact ht.trans (onBus_waiting t hw htx)
  | true =>
    cases i with
    | tick cnt => exact onTick_waiting _ hw htx
    | _ => cases hi

/-- While a read waits every wire word is stuck, the ones without a constructor too (R163). -/
theorem runWire_waiting (w : Wire) {s : State} (hw : s.cfg.wf = true) (htx : s.txPending = true) :
    runWire w s = .fault .readWait := by
  cases h : decode s.cfg w with
  | ok i => rw [runWire_ok h]; exact exec_waiting i hw htx
  | error e =>
    obtain ⟨t, ht⟩ := runUndecoded_onBus e s
    rw [runWire_error h, ht]
    exact onBus_waiting t hw htx

/-- An ill-formed configuration refuses whatever is guarded (R7). -/
theorem guardCfg_illFormed {s : State} (r : Result) (hw : s.cfg.wf = false) :
    guardCfg s r = .refused .illFormedConfig := by
  simp [guardCfg, hw]

/-- Every operation of the table is guarded by its configuration (log 19). -/
theorem exec_guarded (i : Instr) (s : State) : ∃ r, exec i s = guardCfg s r := by
  cases i <;> exact ⟨_, rfl⟩

/-- Every entry of the environment's list is guarded by the configuration (log 19). -/
theorem runInput_guarded (e : Input) (s : State) : ∃ r, runInput e s = guardCfg s r := by
  cases e with
  | wire w =>
    change ∃ r, runWire w s = _
    cases h : decode s.cfg w with
    | ok i => rw [runWire_ok h]; exact exec_guarded i s
    | error e =>
      obtain ⟨t, ht⟩ := runUndecoded_onBus e s
      exact ⟨_, (runWire_error h).trans ht⟩
  | _ => exact ⟨_, rfl⟩

/-! ### Words without a constructor -/

/-- A step on a wire word that does not decode. -/
theorem step_undecoded {s : State} {w : Wire} {rest : List Input} {e : DecodeError} (h : s.inputs = .wire w :: rest)
    (hdec : decode s.cfg w = .error e) : step s = runUndecoded e { s with inputs := rest } :=
  (step_cons h).trans (runWire_error hdec)

/-- A non-zero code of none of the ten commands is rejected as unknown (R63). -/
theorem decodeCV_unknown {cfg : Config} {code : Byte} (v : Byte) (h0 : code ≠ 0) (hcode : code ∉ cfg.codes) :
    decodeCV cfg code v = .error (.unknownCommand code v) :=
  decodeCV_cases (P := (· = _)) cfg code v (fun h => absurd h h0) (fun _ _ hmem _ => absurd hmem hcode) fun _ _ => rfl

/-- A selection of none of the four readable codes is rejected as unknown (R101). -/
theorem decodeRD_unknown {cfg : Config} {b : Byte} (h : selectionOf b ∉ cfg.readableCodes) :
    decodeRD cfg b = .error (.unknownSelection (selectionOf b)) :=
  decodeRD_cases (P := (· = _)) cfg b (fun _ _ hmem => absurd hmem h) fun _ => rfl

end Sys2Proof.Machine

namespace Sys2Proof.Proofs

open Sys2Proof.Machine Sys2Proof.Safety

/-- Settles O14: the code is rejected as unknown, and an unknown command writes nothing. -/
theorem unknownCommandChangesNothing : Obligations.UnknownCommandChangesNothing := by
  intro s code v rest hs h0 hcode hin
  rw [step_undecoded hin ((decode_cvWord _ _ _).trans (decodeCV_unknown v h0 hcode))]
  exact onBus_ready _ hs

/-- Settles O15: the code 0 is rejected as such, and the pair latches its value. -/
theorem zeroCodePairLatchesItsValue : Obligations.ZeroCodePairLatchesItsValue := by
  intro s v rest hs hin
  have hdec : decode s.cfg (cvWord 0 v) = .error (.commandZero v) := (decode_cvWord _ _ _).trans (if_pos rfl)
  rw [step_undecoded hin hdec, runUndecoded, execCommandZero_eq]
  exact onBus_ready _ hs

/-- Settles O21: the selection is rejected as unknown, and such a read draws a free byte. -/
theorem unknownReadWritesOnlyTheByte : Obligations.UnknownReadWritesOnlyTheByte := by
  intro s b rest hs hsel hin
  exact ⟨_, (step_undecoded hin (decodeRD_unknown hsel)).trans (onBus_ready _ hs), rfl⟩

/-- Settles O29: the entry sends a free byte and waits. -/
theorem laterReadByteWritesOnlyTheByte : Obligations.LaterReadByteWritesOnlyTheByte :=
  fun _ _ hs hin => ⟨_, (step_cons hin).trans (onBus_ready _ hs), rfl⟩

/-- Settles O17: a command is what its code and value dispatch to; the other clauses are the agents' frames. -/
theorem twoAgentsWriteDisjointFields : Obligations.TwoAgentsWriteDisjointFields := by
  intro i s t h
  refine ⟨fun hcmd => ?_, fun hbus => ?_, fun htick => ?_⟩
  · obtain ⟨-, code, v, rfl⟩ := exec_command_next hcmd h
    exact (dispatch_frame s code v).state
  · obtain ⟨-, frame⟩ := exec_bus_next hbus h
    exact ⟨frame.state, frame.chan⟩
  · cases i with
    | tick cnt => exact exec_tick_frame h
    | _ => cases htick

/-- Settles O27: a bus operation is stuck before it is looked at, and a tick does not ask for the clock. -/
theorem heldClockStopsTheBusAgentOnly : Obligations.HeldClockStopsTheBusAgentOnly := by
  intro s hw htx hck
  refine ⟨fun i hi => ?_, fun w rest hin hword => ?_, fun rest hin => ?_, fun cnt hdec => ?_⟩
  · obtain ⟨t, ht⟩ := exec_onBus hi s
    exact ht.trans (onBus_held t hw htx hck)
  · obtain ⟨t, ht⟩ := runWire_onBus hword { s with inputs := rest }
    exact (step_cons hin).trans (ht.trans (onBus_held t hw htx hck))
  · exact (step_cons hin).trans (onBus_held _ hw htx hck)
  · obtain ⟨t, ht⟩ := exec_tick_completes cnt ⟨hw, htx⟩ hdec
    exact ⟨t, ht, by rw [(exec_tick_frame ht).1]; exact hck⟩

/-- Settles O28: both guards ask for the wait first; the byte taken ends it. -/
theorem readWaitStopsBothAgents : Obligations.ReadWaitStopsBothAgents := by
  intro s hw htx
  refine ⟨fun i => exec_waiting i hw htx, fun w rest hin => ?_, fun rest hin => ?_, fun rest hin => ?_⟩
  · exact (step_cons hin).trans (runWire_waiting w hw htx)
  · exact (step_cons hin).trans (onBus_waiting _ hw htx)
  · refine (step_cons hin).trans (guardCfg_next.2 ⟨hw, ?_⟩)
    rw [if_pos htx]
    rfl

/-- Settles O32: every operation and every entry of the list is guarded. -/
theorem illFormedConfigurationIsRefused : Obligations.IllFormedConfigurationIsRefused := by
  intro s hw
  refine ⟨fun i => ?_, ?_⟩
  · obtain ⟨r, hr⟩ := exec_guarded i s
    exact hr.trans (guardCfg_illFormed r hw)
  · cases hin : s.inputs with
    | nil => exact (step_nil hin).trans (guardCfg_illFormed _ hw)
    | cons e rest =>
      obtain ⟨r, hr⟩ := runInput_guarded e { s with inputs := rest }
      exact (step_cons hin).trans (hr.trans (guardCfg_illFormed r hw))

/-- Settles O53: among the kinds of step only a tick writes a direction, in a share that flips it. -/
theorem directionChangesOnlyAtZeroDuty : Obligations.DirectionChangesOnlyAtZeroDuty := by
  intro s t i hstep hreset hne
  cases step_kind hstep with
  | idle h => exact absurd (by rw [h]) hne
  | reset rest hin h => exact absurd hin (hreset rest)
  | byteTaken rest h => exact absurd (by rw [h]; split_ifs <;> rfl) hne
  | bus rest ready frame => exact absurd (by rw [frame.chan i]; rfl) hne
  | tick cnt rest h =>
    obtain ⟨r, hr, rfl⟩ := exec_tick_next h
    rw [afterTick_chan] at hne ⊢
    obtain ⟨f, -, hf⟩ := tickChannel_writes (hr i)
    rcases hf with ⟨-, hkeep⟩ | ⟨-, hduty, hdir, -⟩
    · exact absurd hkeep hne
    · exact ⟨hduty, hdir⟩

/-- Settles O54: no kind of step writes these fields but RESET, which writes the configuration's values, and those the
invariant has there already. -/
theorem channelIdentityNeverChanges : Obligations.ChannelIdentityNeverChanges := by
  intro s t hI hstep
  cases step_kind hstep with
  | idle h => exact h ▸ ⟨rfl, fun _ => ⟨rfl, rfl, rfl, rfl⟩⟩
  | reset rest hin h =>
    subst h
    refine ⟨rfl, fun i => ?_⟩
    have hi := hI.channels i
    have hchan : ({ State.resetOf s.cfg with inputs := rest, freeCount := s.freeCount } : State).chan i =
      Channel.resetOf s.cfg i := Channel.resetOf_chan s.cfg i
    rw [hchan, hi.dutyPin, hi.forwardPin, hi.reversePin, hi.motorType]
    exact ⟨rfl, rfl, rfl, rfl⟩
  | byteTaken rest h => rw [h]; split_ifs <;> exact ⟨rfl, fun _ => ⟨rfl, rfl, rfl, rfl⟩⟩
  | bus rest ready frame =>
    refine ⟨by rw [frame.state], fun i => ?_⟩
    rw [frame.chan i]
    exact ⟨rfl, rfl, rfl, rfl⟩
  | tick cnt rest h =>
    obtain ⟨hstate, hchan⟩ := exec_tick_frame h
    refine ⟨by rw [hstate], fun i => ?_⟩
    rw [hchan i]
    exact ⟨rfl, rfl, rfl, rfl⟩

/-- Settles O57: the state that RESET answers, field by field. -/
theorem resetValues : Obligations.ResetValues := by
  intro s rest hw hin
  refine ⟨_, step_reset hw hin, rfl, rfl, rfl, rfl, rfl, rfl, rfl, rfl, rfl, rfl, fun i => ?_⟩
  have hchan : ({ State.resetOf s.cfg with inputs := rest, freeCount := s.freeCount } : State).chan i =
    Channel.resetOf s.cfg i := Channel.resetOf_chan s.cfg i
  obtain ⟨hdriven, hother⟩ := resetOf_targets s.cfg i
  rw [hchan]
  exact ⟨rfl, rfl, rfl, rfl, rfl, rfl, rfl, rfl, rfl, rfl, rfl, hdriven, hother, resetOf_pin hw i⟩

/-- Settles O58: no channel is processed and none is marked on, so each tick leaves the state alone. -/
theorem ticksAfterResetDoNothing : Obligations.TicksAfterResetDoNothing := by
  intro cfg cnts hw hdisabled
  refine runSteps_ticks_nothing (s := State.resetOf cfg) (fun cnt => exec_tick_nothing cnt ⟨hw, rfl⟩ ?_ ?_) cnts
  · rintro i ⟨hge, he⟩
    rw [Channel.resetOf_chan] at he
    rcases hdisabled with hoff | hoff
    · exact Bool.false_ne_true (hoff.symm.trans hge)
    · exact Bool.false_ne_true ((hoff i).symm.trans he)
  · intro i
    rw [Channel.resetOf_chan]
    rfl

end Sys2Proof.Proofs

/-! The commands and the read-backs one by one (R85 to R101), and their forms on the bus (R81). -/

namespace Sys2Proof.Machine

open Sys2Proof.Safety

/-- A flag of true polarity: the masked bit is set (R60). -/
theorem flagTrue_eq_decide (v m : Byte) : flagTrue v m = decide (v &&& m ≠ 0) := by
  rw [flagTrue, Bool.eq_iff_iff, bne_iff_ne, decide_eq_true_iff]

/-- A flag of inverted polarity: the masked bit is clear (R61). -/
theorem flagInverted_eq_decide (v m : Byte) : flagInverted v m = decide (v &&& m = 0) := by
  rw [flagInverted, Bool.eq_iff_iff, beq_iff_eq, decide_eq_true_iff]

/-- A target written twice is a target written once (R86). -/
theorem setTarget_idem (v : Byte) (c : Channel) : setTarget v (setTarget v c) = setTarget v c := rfl

/-- An idempotent update of one channel. -/
theorem modChan_idem (s : State) (i : ChIdx) {f : Channel → Channel} (hf : ∀ c, f (f c) = f c) :
    (s.modChan i f).modChan i f = s.modChan i f := by
  have hch : ((s.ch.modify i f).modify i f) = s.ch.modify i f := Quad.ext_get fun j => by
    simp only [Quad.get_modify]
    split_ifs with h
    · exact hf _
    · rfl
  simp only [State.modChan, hch]

/-- An idempotent update of every channel. -/
theorem modAll_idem (s : State) {f : Channel → Channel} (hf : ∀ c, f (f c) = f c) :
    (s.modAll f).modAll f = s.modAll f := by
  have hch : ((s.ch.map f).map f) = s.ch.map f := Quad.ext_get fun j => by
    simp only [Quad.get_map]
    exact hf _
  simp only [State.modAll, hch]

/-- Two idempotent updates, of left and of right. -/
theorem modLeftRight_idem {s : State} (hw : s.cfg.wf = true) {f g : Channel → Channel} (hf : ∀ c, f (f c) = f c)
    (hg : ∀ c, g (g c) = g c) :
    ((((s.modChan s.cfg.leftIdx f).modChan s.cfg.rightIdx g).modChan s.cfg.leftIdx f).modChan s.cfg.rightIdx g).ch =
      ((s.modChan s.cfg.leftIdx f).modChan s.cfg.rightIdx g).ch := by
  refine Quad.ext_get fun i => ?_
  have once := State.chan_left_right hw f g i
  have twice := State.chan_left_right (s := (s.modChan s.cfg.leftIdx f).modChan s.cfg.rightIdx g) hw f g i
  refine twice.trans (Eq.trans ?_ once.symm)
  rw [once]
  simp only [State.modChan_cfg]
  split_ifs
  · exact hf _
  · exact hg _
  · rfl

/-- Two states that differ at most in the channels, and not in them. -/
theorem State.eq_of_ch {s t : State} (h : t = { s with ch := t.ch }) (hch : t.ch = s.ch) : t = s := by
  rw [h, hch]

/-- An operation of the bus agent that is idempotent as an update, made again where it completed, changes nothing. -/
theorem onBus_again {s t : State} {f : State → State} (h : onBus s (f s) = .next t)
    (keeps : (f s).cfg = s.cfg ∧ (f s).txPending = s.txPending ∧ (f s).clockHeld = s.clockHeld)
    (idem : s.cfg.wf = true → f (f s) = f s) : onBus t (f t) = .next t := by
  obtain ⟨hs, rfl⟩ := onBus_next.1 h
  obtain ⟨hcfg, htx, hck⟩ := keeps
  exact onBus_next.2 ⟨by rw [BusReady, hcfg, htx, hck]; exact hs, (idem hs.1).symm⟩

/-- A readable code selects its own byte (R98 to R100). -/
theorem readValue_code {s : State} (hw : s.cfg.wf = true) :
    readValue s.cfg.codeLeft s = some (leftByte s) ∧ readValue s.cfg.codeRight s = some (rightByte s) ∧
      readValue s.cfg.codeSettings s = some (settingsByte s) ∧ readValue s.cfg.codeSpeed s = some (speedByte s) := by
  have distinct := Config.codes_nodup hw
  simp only [Config.codes, List.nodup_cons, List.mem_cons, List.not_mem_nil, or_false, not_or] at distinct
  unfold readValue
  refine ⟨?_, ?_, ?_, ?_⟩ <;> grind

/-- A data-read event writes the outgoing byte and waits, whatever its selection (R76). -/
theorem busEvent_dataRead_frame (rx : Byte) (s : State) :
    busEvent false false false rx s =
      { s with tx := (busEvent false false false rx s).tx, txPending := true, clockHeld := false, irqPending := true,
               freeCount := (busEvent false false false rx s).freeCount } := by
  cases h : readValue (selectionOf rx) s with
  | some b => rw [busEvent_send h]
  | none => rw [busEvent_sendFree h]

/-- A read of the table returns the byte its selection selects (R57, R98 to R100). -/
theorem exec_of_decodeRD {s : State} {b : Byte} {i : Instr} (h : decodeRD s.cfg b = .ok i) :
    ∃ x, readValue (selectionOf b) s = some x ∧ exec i s = onBus s (s.returnByte x) := by
  revert h
  unfold decodeRD readValue
  by_cases h1 : selectionOf b = s.cfg.codeLeft
  · simp only [if_pos h1]
    rintro ⟨⟩
    exact ⟨_, rfl, rfl⟩
  by_cases h2 : selectionOf b = s.cfg.codeRight
  · simp only [if_neg h1, if_pos h2]
    rintro ⟨⟩
    exact ⟨_, rfl, rfl⟩
  by_cases h3 : selectionOf b = s.cfg.codeSettings
  · simp only [if_neg h1, if_neg h2, if_pos h3]
    rintro ⟨⟩
    exact ⟨_, rfl, rfl⟩
  by_cases h4 : selectionOf b = s.cfg.codeSpeed
  · simp only [if_neg h1, if_neg h2, if_neg h3, if_pos h4]
    rintro ⟨⟩
    exact ⟨_, rfl, rfl⟩
  · simp only [if_neg h1, if_neg h2, if_neg h3, if_neg h4]
    rintro ⟨⟩

/-- An enabled bus event as the environment's next entry (R70). -/
theorem step_busevent {s : State} (hs : BusReady s) (o a w : Bool) (rx : Byte) (rest : List Input) :
    step { s with inputs := .wire (encode s.cfg (.busevent o a w rx)) :: rest } =
      .next (busEvent o a w rx { s with inputs := rest }) := by
  rw [step_cons rfl]
  exact (runWire_ok (s := { s with inputs := rest }) (decode_encode hs.1 _)).trans (exec_busevent_ready o a w rx hs)

/-- The three bus events of a write transaction: address, code, value (R81 (a)). -/
theorem run_writeTransaction {s : State} (hs : BusReady s) (x v : Byte) {code : Byte} (h0 : code ≠ 0) :
    runSteps 3 { s with inputs := [.wire (encode s.cfg (.busevent false true true x)),
        .wire (encode s.cfg (.busevent false false true code)), .wire (encode s.cfg (.busevent false false true v))] } =
      .next { dispatch code v { s with inputs := [] } with
        pendingCommand := 0, clockHeld := false, irqPending := false } := by
  obtain ⟨hw, htx, hck⟩ := hs
  have first := step_busevent ⟨hw, htx, hck⟩ false true true x
    [.wire (encode s.cfg (.busevent false false true code)), .wire (encode s.cfg (.busevent false false true v))]
  rw [busEvent_addressWrite] at first
  have second := step_busevent (s := { s with pendingCommand := 0, clockHeld := false, irqPending := false })
    ⟨hw, htx, rfl⟩ false false true code [.wire (encode s.cfg (.busevent false false true v))]
  rw [busEvent_latch _ rfl] at second
  have third := step_busevent (s := { s with pendingCommand := code, clockHeld := false, irqPending := false })
    ⟨hw, htx, rfl⟩ false false true v []
  rw [busEvent_dispatch _ h0] at third
  have latched := dispatch_withFront { s with inputs := [] } code v code false false
  rw [runSteps_next _ first, runSteps_next _ second, runSteps_next _ third, runSteps_zero]
  exact congrArg (fun t : State => Host.Outcome.next
    { t with pendingCommand := 0, clockHeld := false, irqPending := false }) latched

end Sys2Proof.Machine

namespace Sys2Proof.Proofs

open Sys2Proof.Machine Sys2Proof.Safety

/-- Settles O6: on left and on right the target is set, with the floor. -/
theorem speedWritesBothTargets : Obligations.SpeedWritesBothTargets := by
  intro s v hs
  refine ⟨_, onBus_ready _ hs, rfl, fun i => ?_⟩
  rw [applySpeed_chan hs.1]
  by_cases hl : i = s.cfg.leftIdx
  · rw [if_pos hl, if_pos (.inl hl)]; rfl
  · rw [if_neg hl]
    exact if_congr (by simp [hl]) rfl rfl

/-- Settles O7: the left target is set, with the floor. -/
theorem leftWritesLeftTarget : Obligations.LeftWritesLeftTarget :=
  fun s v hs => ⟨_, onBus_ready _ hs, rfl, applyLeft_chan s v⟩

/-- Settles O8: the right target is set, with the floor. -/
theorem rightWritesRightTarget : Obligations.RightWritesRightTarget :=
  fun s v hs => ⟨_, onBus_ready _ hs, rfl, applyRight_chan s v⟩

/-- Settles O9: the effect of SETTINGS, its flag of true polarity. -/
theorem settingsWritesFlagTypeAndByte : Obligations.SettingsWritesFlagTypeAndByte := by
  intro s v hs
  refine ⟨_, onBus_ready _ hs, ?_, applySettings_chan s v⟩
  rw [← flagTrue_eq_decide]
  rfl

/-- Settles O10: the effect of DIRECTION. -/
theorem directionWritesWantedDirections : Obligations.DirectionWritesWantedDirections :=
  fun _ v hs => ⟨_, onBus_ready _ hs, rfl, applyDirection_chan hs.1 v⟩

/-- Settles O11: the effect of ENABLE, its flags of inverted polarity. -/
theorem enableWritesInvertedFlags : Obligations.EnableWritesInvertedFlags := by
  intro s v hs
  simp only [← flagInverted_eq_decide]
  exact ⟨_, onBus_ready _ hs, rfl, applyEnable_chan hs.1 v⟩

/-- Settles O12: the effect of PAUSE, its global flag of true polarity and the two others of inverted. -/
theorem pauseWritesMixedFlags : Obligations.PauseWritesMixedFlags := by
  intro s v hs
  simp only [← flagInverted_eq_decide, ← flagTrue_eq_decide]
  exact ⟨_, onBus_ready _ hs, rfl, applyPause_chan hs.1 v⟩

/-- Settles O13: the three effects on every channel. -/
theorem configurationCommandsWriteEveryChannel : Obligations.ConfigurationCommandsWriteEveryChannel :=
  fun s v hs => ⟨⟨_, onBus_ready _ hs, rfl, applyAccel_chan s v⟩, ⟨_, onBus_ready _ hs, rfl, applyAccelRate_chan s v⟩,
    ⟨_, onBus_ready _ hs, rfl, applyMinimumDuty_chan s v⟩⟩

/-- Settles O18: the read-backs of the two duties. -/
theorem channelReadsReturnDuty : Obligations.ChannelReadsReturnDuty :=
  fun _ _ hs => ⟨onBus_ready _ hs, onBus_ready _ hs⟩

/-- Settles O19: the read-backs of the settings byte and of the left duty. -/
theorem settingsAndSpeedReadsComplete : Obligations.SettingsAndSpeedReadsComplete :=
  fun _ _ hs => ⟨onBus_ready _ hs, onBus_ready _ hs⟩

/-- Settles O20: ENABLE and ACCEL change the live flags and profiles, not the stored byte. -/
theorem settingsReadIsStale : Obligations.SettingsReadIsStale := by
  intro s v e a w hs
  refine ⟨applySettings v s, applyEnable e (applySettings v s), applyAccel a (applyEnable e (applySettings v s)), _,
    onBus_ready _ hs, onBus_ready _ hs, onBus_ready _ hs, onBus_ready _ hs, rfl,
    flagInverted_eq_decide _ _, fun i => ?_⟩
  exact congrArg Channel.accelType (applyAccel_chan _ a i)

/-- Settles O22: the error arm. -/
theorem busErrorDropsTheByte : Obligations.BusErrorDropsTheByte := by
  intro s a w rx hs
  rw [exec_busevent_ready true a w rx hs, busEvent_error, ← hs.2.2]

/-- Settles O26: address phase with read direction runs no arm. -/
theorem busAddressReadHoldsTheClock : Obligations.BusAddressReadHoldsTheClock := by
  intro s rx hs
  rw [exec_busevent_ready false true false rx hs, busEvent_addressRead]

/-- Settles O16: each command's effect is idempotent, channel by channel, and keeps the bus agent enabled. -/
theorem commandsAreIdempotent : Obligations.CommandsAreIdempotent := by
  intro i s t hi h
  cases i with
  | speed v =>
    refine onBus_again (f := applySpeed v) h ⟨rfl, rfl, rfl⟩ fun hw => State.eq_of_ch rfl ?_
    exact modLeftRight_idem hw (setTarget_idem v) (setTarget_idem v)
  | left v => exact onBus_again (f := applyLeft v) h ⟨rfl, rfl, rfl⟩ fun _ => modChan_idem s _ (setTarget_idem v)
  | right v => exact onBus_again (f := applyRight v) h ⟨rfl, rfl, rfl⟩ fun _ => modChan_idem s _ (setTarget_idem v)
  | settings v =>
    refine onBus_again (f := applySettings v) h ⟨rfl, rfl, rfl⟩ fun hw => State.eq_of_ch rfl ?_
    have again := modAll_idem s (f := fun c => { c with accelType := accelTypeField s.cfg v }) fun _ => rfl
    exact (congrArg State.ch again :)
  | direction v =>
    refine onBus_again (f := applyDirection v) h ⟨rfl, rfl, rfl⟩ fun hw => State.eq_of_ch rfl ?_
    exact modLeftRight_idem hw (fun _ => rfl) fun _ => rfl
  | enable v =>
    refine onBus_again (f := applyEnable v) h ⟨rfl, rfl, rfl⟩ fun hw => State.eq_of_ch rfl ?_
    exact modLeftRight_idem hw (f := fun c => { c with enabled := flagInverted v s.cfg.leftMask })
      (g := fun c => { c with enabled := flagInverted v s.cfg.rightMask }) (fun _ => rfl) fun _ => rfl
  | pause v =>
    refine onBus_again (f := applyPause v) h ⟨rfl, rfl, rfl⟩ fun hw => State.eq_of_ch rfl ?_
    exact modLeftRight_idem hw (f := fun c => { c with paused := flagInverted v s.cfg.leftMask })
      (g := fun c => { c with paused := flagInverted v s.cfg.rightMask }) (fun _ => rfl) fun _ => rfl
  | accel v => exact onBus_again (f := applyAccel v) h ⟨rfl, rfl, rfl⟩ fun _ => modAll_idem s fun _ => rfl
  | accelRate v => exact onBus_again (f := applyAccelRate v) h ⟨rfl, rfl, rfl⟩ fun _ => modAll_idem s fun _ => rfl
  | minimumDuty v => exact onBus_again (f := applyMinimumDuty v) h ⟨rfl, rfl, rfl⟩ fun _ => modAll_idem s fun _ => rfl
  | _ => cases hi

/-- Settles O25: the event's frame, and the byte of each of the four distinct selections. -/
theorem busDataReadSendsTheSelectedByte : Obligations.BusDataReadSendsTheSelectedByte := by
  intro s rx hs
  obtain ⟨left, right, settings, speed⟩ := readValue_code hs.1
  have sent : ∀ {b}, readValue (selectionOf rx) s = some b → (busEvent false false false rx s).tx = b :=
    fun h => congrArg State.tx (busEvent_send h)
  exact ⟨_, exec_busevent_ready false false false rx hs, busEvent_dataRead_frame rx s, fun h => sent (h ▸ left),
    fun h => sent (h ▸ right), fun h => sent (h ▸ settings), fun h => sent (h ▸ speed)⟩

/-- Settles O30: the transaction ends with the code dispatched on the value, which is the command or, for an unknown
code, nothing. -/
theorem busTransactionIsTheCommand : Obligations.BusTransactionIsTheCommand := by
  intro s x code v hs h0 events
  have run := run_writeTransaction hs x v h0
  refine ⟨fun i hdec => ?_, fun hcode => ?_⟩
  · refine ⟨_, (exec_ready_of_decode_cvWord (s := { s with inputs := [] }) hs hdec).2, run.trans ?_⟩
    have hck : false = (dispatch code v { s with inputs := [] }).clockHeld := by
      rw [(dispatch_frame { s with inputs := [] } code v).state]
      exact hs.2.2.symm
    exact congrArg (fun ck => Host.Outcome.next { dispatch code v { s with inputs := [] } with
      pendingCommand := 0, clockHeld := ck, irqPending := false }) hck
  · have nothing := dispatch_unknown { s with inputs := [] } v hcode
    rw [nothing] at run
    exact run.trans (congrArg (fun ck => Host.Outcome.next { s with
      inputs := [], pendingCommand := 0, clockHeld := ck, irqPending := false }) hs.2.2.symm)

/-- Settles O31: the event sends the byte that the read returns, and the byte taken ends the wait. -/
theorem busReadIsTheReadBack : Obligations.BusReadIsTheReadBack := by
  intro s b i hs hdec
  obtain ⟨byte, hvalue, hexec⟩ := exec_of_decodeRD (s := { s with inputs := [] }) hdec
  refine ⟨_, hexec.trans (onBus_ready _ hs), ?_⟩
  have event := step_busevent hs false false false b [.byteTaken]
  rw [busEvent_send (s := { s with inputs := [.byteTaken] }) hvalue] at event
  obtain ⟨-, -, -, taken⟩ := readWaitStopsBothAgents
    { s with inputs := [.byteTaken], tx := byte, txPending := true, clockHeld := false, irqPending := true } hs.1 rfl
  have front : ∀ txp ck, txp = s.txPending → ck = s.clockHeld →
      ({ s with inputs := [], tx := byte, txPending := txp, clockHeld := ck, irqPending := false } : State) =
        { s with inputs := [], tx := byte, irqPending := false } := by
    rintro _ _ rfl rfl
    rfl
  exact (runSteps_next _ event).trans ((runSteps_next _ (taken [] rfl)).trans
    (congrArg Host.Outcome.next (front _ _ hs.2.1.symm hs.2.2.symm)))

end Sys2Proof.Proofs

/-! The ramp's arithmetic: the profiles one by one (R131 to R137), no step crosses the target (R138), repeated steps
reach it (R139), and the round trip through a target command (R102). -/

namespace Sys2Proof.Machine

open Sys2Proof.Safety

/-- At or below a floor that the target does not reach, the step ends with 0 (R131). -/
theorem rampCore_snap_down (dist : ExpGrowDist) {d t m : Nat} (p : Profile) (stop : Bool) (hd : d ≤ m) (ht : t < m) :
    rampCore dist d t m p stop = 0 := by
  unfold rampCore
  rw [if_neg fun h => ht.not_ge h.2, if_pos ⟨hd, ht⟩]

/-- Above the floor, or at it with a target that reaches it, the step is the profile's (R132). -/
theorem rampCore_profile (dist : ExpGrowDist) {d t m : Nat} (p : Profile) (stop : Bool) (hd : m ≤ d)
    (h : m < d ∨ m ≤ t) : rampCore dist d t m p stop = profileStep dist d t m p stop := by
  unfold rampCore
  rw [if_neg fun e => hd.not_gt e.1, if_neg fun e => h.elim e.1.not_gt e.2.not_ge]

/-- With an effective target (R128), a step is the lift to the floor and the profile from there, the snap to 0, or the
profile's, which then has the target above or is past the decay bound. -/
theorem rampCore_cases {P : Nat → Prop} (dist : ExpGrowDist) {d t m : Nat} (p : Profile) (stop : Bool)
    (ht : t = 0 ∨ m ≤ t) (lift : d < m → m ≤ t → P (profileStep dist m t m p stop))
    (snap : d ≤ m → t = 0 → 0 < m → P 0) (up : m ≤ d → d ≤ t → P (profileStep dist d t m p stop))
    (down : max t m < d → P (profileStep dist d t m p stop)) : P (rampCore dist d t m p stop) := by
  by_cases hd : d < m
  · by_cases hm : m ≤ t
    · rw [rampCore_below_floor dist p stop hd hm]
      exact lift hd hm
    · rw [rampCore_snap_down dist p stop hd.le (not_le.1 hm)]
      exact snap hd.le (ht.resolve_right hm) (by omega)
  · by_cases hsnap : d ≤ m ∧ t < m
    · rw [rampCore_snap_down dist p stop hsnap.1 hsnap.2]
      exact snap hsnap.1 (ht.resolve_right hsnap.2.not_ge) (by omega)
    · rw [rampCore_profile dist p stop (not_lt.1 hd) (by omega)]
      by_cases hup : d ≤ t
      · exact up (not_lt.1 hd) hup
      · exact down (by omega)

/-- A profile's step from at or below the target does not leave the way to it (R138). -/
theorem profileStep_up (dist : ExpGrowDist) {d t : Nat} (m : Nat) (p : Profile) (stop : Bool) (h : d ≤ t) :
    d ≤ profileStep dist d t m p stop ∧ profileStep dist d t m p stop ≤ t := by
  have hbound : d ≤ decayBound t m := h.trans (le_max_left t m)
  cases p with
  | instant =>
    simp only [profileStep, instantStep]
    split_ifs <;> omega
  | linear =>
    simp only [profileStep]
    split_ifs <;> omega
  | exponential =>
    simp only [profileStep]
    split_ifs with hlt hdecay
    · have := expGrow_bounds dist m hlt
      omega
    · omega
    · omega

/-- Below the target an Accelerate step of any profile moves (R133, R134, R137). -/
theorem profileStep_grows (dist : ExpGrowDist) {d t : Nat} (m : Nat) (p : Profile) (h : d < t) :
    d < profileStep dist d t m p false := by
  cases p with
  | instant => exact h
  | linear => simp only [profileStep, if_pos h]; omega
  | exponential => simp only [profileStep, if_pos h]; exact (expGrow_bounds dist m h).1

/-- Past the decay bound a profile's step moves down, not past the target, and not past the bound unless it is Instant's
(R138). -/
theorem profileStep_down (dist : ExpGrowDist) {d t m : Nat} (p : Profile) (stop : Bool) (h : max t m < d) :
    profileStep dist d t m p stop < d ∧ t ≤ profileStep dist d t m p stop ∧
      (p ≠ .instant → max t m ≤ profileStep dist d t m p stop) := by
  have hup : ¬ d < t := by omega
  have hbound : decayBound t m < d := h
  have ht : t ≤ decayBound t m := le_max_left t m
  change _ ∧ _ ∧ (_ → decayBound t m ≤ _)
  cases p with
  | instant =>
    simp only [profileStep, instantStep, gt_iff_lt, if_pos hbound]
    refine ⟨?_, ?_, fun hne => absurd rfl hne⟩ <;> (split_ifs <;> omega)
  | linear =>
    simp only [profileStep, if_neg hup, gt_iff_lt, if_pos hbound]
    omega
  | exponential =>
    simp only [profileStep, if_neg hup, gt_iff_lt, if_pos hbound]
    have := expDecay_bounds m hbound
    omega

/-- A step moves to the target or towards it: always when accelerating, and in the Stop arm, whose target is 0
(R139). -/
theorem rampCore_closer (dist : ExpGrowDist) {d t m : Nat} (p : Profile) {stop : Bool} (ht : t = 0 ∨ m ≤ t)
    (hstop : stop = true → t = 0) :
    (d < t → d < rampCore dist d t m p stop ∧ rampCore dist d t m p stop ≤ t) ∧
      (t < d → rampCore dist d t m p stop < d ∧ t ≤ rampCore dist d t m p stop) ∧
      (d = t → rampCore dist d t m p stop = t) := by
  refine rampCore_cases (P := fun r => (d < t → d < r ∧ r ≤ t) ∧ (t < d → r < d ∧ t ≤ r) ∧ (d = t → r = t)) dist p
    stop ht ?lift ?snap ?up ?down
  case lift =>
    intro hd hm
    have := profileStep_up dist m p stop hm
    omega
  case snap =>
    intro hd h0 hm
    omega
  case up =>
    intro hd hup
    have hr := profileStep_up dist m p stop hup
    refine ⟨fun hlt => ?_, fun hgt => by omega, fun heq => by omega⟩
    obtain rfl : stop = false := by
      cases stop with
      | false => rfl
      | true => exact absurd (hstop rfl) (by omega)
    exact ⟨profileStep_grows dist m p hlt, hr.2⟩
  case down =>
    intro hd
    have := profileStep_down dist p stop hd
    omega

/-- A function that stays at `t` and otherwise moves towards it without crossing it reaches it in as many steps as the
distance. -/
theorem iterate_reaches {f : Nat → Nat} {t : Nat}
    (closer : ∀ x, (x < t → x < f x ∧ f x ≤ t) ∧ (t < x → f x < x ∧ t ≤ f x) ∧ (x = t → f x = t)) (k x : Nat)
    (hk : (x - t) + (t - x) ≤ k) : f^[k] x = t := by
  induction k generalizing x with
  | zero => exact (by omega : x = t)
  | succ k ih =>
    rw [Function.iterate_succ_apply]
    have := closer x
    exact ih (f x) (by omega)

/-- An accelerating Instant step ends at an effective target, whatever its case (R133). -/
theorem rampCore_instant (dist : ExpGrowDist) (d : Nat) {t m : Nat} (ht : t = 0 ∨ m ≤ t) :
    rampCore dist d t m .instant false = t :=
  rampCore_cases (P := (· = t)) dist .instant false ht (fun _ _ => rfl) (fun _ h0 _ => h0.symm) (fun _ _ => rfl)
    fun _ => rfl

/-- The Instant profile's code decodes to it (R21). -/
theorem profileOf_instant (cfg : Config) : profileOf cfg cfg.accelInstant = some .instant := if_pos rfl

/-- The share of a due, unpaused Instant channel whose target its floor allows ends with the duty at the target (R133,
R143). -/
theorem tickChannel_instant {cfg : Config} {gp : Bool} {cnt : Byte} {c : Channel} {r : ChanStep}
    (he : c.enabled = true) (hdue : c.accelRate ≤ c.accelStepCount) (hgo : ¬ stopCondition gp c = true)
    (hprofile : c.accelType = cfg.accelInstant) (htarget : c.target = 0 ∨ ¬ c.target < c.minimumDuty)
    (h : tickChannel cfg true gp cnt c = some r) : r.chan.duty = c.target := by
  by_cases heq : c.duty = c.target
  · rw [tickChannel_steady he hdue hgo heq, Option.some_inj] at h
    rw [← h]
    exact heq
  · obtain ⟨p, hp, hduty, -⟩ := tickChannel_accelerating he hdue hgo heq h
    rw [hprofile, profileOf_instant, Option.some_inj] at hp
    subst hp
    have heff : effectiveTarget c = c.target := by
      unfold effectiveTarget
      split_ifs with hlt
      · exact (htarget.resolve_right (not_not.2 hlt)).symm
      · rfl
    have hnat : c.target.toNat = 0 ∨ c.minimumDuty.toNat ≤ c.target.toNat :=
      htarget.imp (fun e => by rw [e]; rfl) fun e => not_lt.1 e
    rw [hduty]
    refine BitVec.eq_of_toNat_eq ?_
    rw [accelerateDuty_toNat, heff, rampCore_instant _ _ hnat]

/-- A target that is set is 0 or not below the floor (R86). -/
theorem setTarget_allowed (v : Byte) (c : Channel) :
    (setTarget v c).target = 0 ∨ ¬ (setTarget v c).target < (setTarget v c).minimumDuty := by
  unfold setTarget
  split_ifs with h
  · exact .inl rfl
  · exact .inr h

/-- SPEED, LEFT and RIGHT set the targets they write and nothing else (R87, R88, R96). -/
theorem exec_target_command {s : State} {i : Instr} {v : Byte} (hs : BusReady s)
    (hi : i = .speed v ∨ i = .left v ∨ i = .right v) :
    ∃ t, exec i s = .next t ∧ t = { s with ch := t.ch } ∧
      ∀ j, (WritesTarget s.cfg i j → t.chan j = setTarget v (s.chan j)) ∧
        (¬ WritesTarget s.cfg i j → t.chan j = s.chan j) := by
  rcases hi with rfl | rfl | rfl
  · refine ⟨_, onBus_ready _ hs, rfl, fun j => ?_⟩
    rw [applySpeed_chan hs.1]
    by_cases hl : j = s.cfg.leftIdx
    · exact ⟨fun _ => if_pos hl, fun hn => absurd (.inl hl) hn⟩
    · rw [if_neg hl]
      exact ⟨fun hw => if_pos (hw.resolve_left hl), fun hn => if_neg fun hr => hn (.inr hr)⟩
  · refine ⟨_, onBus_ready _ hs, rfl, fun j => ?_⟩
    rw [applyLeft_chan]
    exact ⟨fun hw => if_pos hw, fun hn => if_neg hn⟩
  · refine ⟨_, onBus_ready _ hs, rfl, fun j => ?_⟩
    rw [applyRight_chan]
    exact ⟨fun hw => if_pos hw, fun hn => if_neg hn⟩

end Sys2Proof.Machine

namespace Sys2Proof.Proofs

open Sys2Proof.Machine Sys2Proof.Safety

/-- Settles O44: the second floor snap. -/
theorem floorSnapDownEndsTheStep : Obligations.FloorSnapDownEndsTheStep :=
  fun dist _ _ _ p stop hd ht => rampCore_snap_down dist p stop hd ht

/-- Settles O45: an accelerating step ends at the target; in the Stop arm the target is 0, so nothing is lifted, and at
or below the floor the duty snaps or is 0. -/
theorem instantProfileSteps : Obligations.InstantProfileSteps := by
  intro dist d t m ht
  constructor
  · exact rampCore_instant dist d ht
  · by_cases hd : m < d
    · rw [rampCore_profile dist _ _ hd.le (.inl hd), if_pos hd]
      simp [profileStep, instantStep, decayBound, hd]
    · rw [if_neg hd]
      refine rampCore_cases (P := (· = 0)) dist .instant true (.inl rfl) ?_ (fun _ _ _ => rfl) ?_ ?_
      · intro hlt hm; omega
      · intro _ hup
        have := profileStep_up dist m .instant true hup
        omega
      · intro hdown; omega

/-- Settles O46: the two snaps, then the profile. -/
theorem linearProfileStepsByOne : Obligations.LinearProfileStepsByOne := by
  intro dist d t m stop _
  unfold rampCore
  have atFloor : ¬ m > decayBound t m := not_lt.2 (le_max_right t m)
  simp only [profileStep, if_neg atFloor]
  rfl

/-- Settles O48: past the bound there is no snap, and the profile decays. -/
theorem exponentialDecaySteps : Obligations.ExponentialDecaySteps := by
  intro dist d t m stop h
  rw [rampCore_profile dist _ _ (by omega) (.inl (by omega)), profileStep, if_neg (by omega),
    if_pos (show d > decayBound t m from h)]
  rfl

/-- Settles O49: above the floor there is no snap, and the profile grows by the distance of its reading. -/
theorem exponentialGrowthSteps : Obligations.ExponentialGrowthSteps := by
  intro d t m stop hm hd
  constructor <;> (rw [rampCore_profile _ _ _ hm (.inr (by omega)), profileStep, if_pos hd]; rfl)

/-- Settles O50: case by case of the step; a lift or a step up stays at or below the target, a step down at or above
it, and no snap starts above the floor. -/
theorem rampNeverOvershoots : Obligations.RampNeverOvershoots := by
  intro dist d t m p stop ht
  refine rampCore_cases (P := fun r => (d < r → r ≤ t) ∧ (r < d → t ≤ r) ∧ (r < d → p ≠ .instant → m < d → max t m ≤ r))
    dist p stop ht ?lift ?snap ?up ?down
  case lift =>
    intro hd hm
    have := profileStep_up dist m p stop hm
    omega
  case snap =>
    intro hd h0 hm
    omega
  case up =>
    intro hd hup
    have := profileStep_up dist m p stop hup
    omega
  case down =>
    intro hd
    obtain ⟨hlt, hge, hbound⟩ := profileStep_down dist p stop hd
    exact ⟨fun h => by omega, fun _ => hge, fun _ hne _ => hbound hne⟩

/-- Settles O51: every step moves towards the target and none is further than 255 away. -/
theorem rampConverges : Obligations.RampConverges := by
  intro dist d t m p hd htt hm ht k hk
  constructor
  · exact iterate_reaches (fun x => rampCore_closer dist p ht (by simp)) k d (by omega)
  · exact iterate_reaches (fun x => rampCore_closer dist p (.inl rfl) fun _ => rfl) k d (by omega)

/-- Settles O52: the command changes targets alone, so the tick completes and finds the channel due; its Instant step
ends at the target that was set. -/
theorem instantTargetRoundTrip : Obligations.InstantTargetRoundTrip := by
  intro s i v cnt k hs hi hwrites hdue hgo hinstant hdec
  obtain ⟨t, ht, hstate, htargets⟩ := exec_target_command hs hi
  have hcfg : t.cfg = s.cfg := by rw [hstate]
  have hge : t.globalEnable = s.globalEnable := by rw [hstate]
  have hgp : t.globalPause = s.globalPause := by rw [hstate]
  have htx : t.txPending = s.txPending := by rw [hstate]
  have hchan : ∀ j, t.chan j = { s.chan j with target := (t.chan j).target } := by
    intro j
    by_cases hw : WritesTarget s.cfg i j
    · rw [(htargets j).1 hw]; rfl
    · rw [(htargets j).2 hw]
  have due : ∀ j, RampDue t j ↔ RampDue s j := fun j => by rw [RampDue, Processed, hge, hchan j]
  have stopping : ∀ j, Stopping t j ↔ Stopping s j := fun j => by rw [Stopping, hgp, hchan j]
  have decodable : TickDecodable t := by
    intro j hj harm
    rw [hcfg, hchan j]
    refine hdec j ((due j).1 hj) ?_
    by_cases hw : WritesTarget s.cfg i j
    · exact .inr (.inr hw)
    · rw [stopping j, (htargets j).2 hw] at harm
      exact harm.imp_right .inl
  obtain ⟨u, hu⟩ := exec_tick_completes cnt ⟨hcfg ▸ hs.1, htx.trans hs.2.1⟩ decodable
  refine ⟨t, u, ht, hu, ?_⟩
  obtain ⟨r, hr, rfl⟩ := exec_tick_next hu
  obtain ⟨⟨hon, he⟩, hreached⟩ := (due k).2 hdue
  have hgo' := mt (stopCondition_iff_stopping t k).1 (mt (stopping k).1 hgo)
  have hprofile : (t.chan k).accelType = t.cfg.accelInstant := by rw [hchan k, hcfg]; exact hinstant
  have hset := (htargets k).1 hwrites
  rw [afterTick_chan, tickChannel_instant he hreached hgo' hprofile (hset ▸ setTarget_allowed v _) (hon ▸ hr k), hset]
  rfl

end Sys2Proof.Proofs

/-! Runs of nominal ticks (R109, R110, R181): they keep the invariant and the tick agent's frame, they complete when no
ramp can be refused, and a channel that keeps its duty gives its waveform. -/

namespace Sys2Proof.Machine

open Sys2Proof.Safety

/-- `u` is reached from `s` by ticks alone: the invariant holds, and only the tick agent's fields differ (R33). -/
structure TickedFrom (s u : State) : Prop where
  inv : Inv u
  state : u = { s with ch := u.ch, pins := u.pins, trace := u.trace, inputs := [] }
  chan : ∀ i, u.chan i =
    { s.chan i with
      duty := (u.chan i).duty, direction := (u.chan i).direction, outputLevel := (u.chan i).outputLevel
      servoRefreshCount := (u.chan i).servoRefreshCount, accelStepCount := (u.chan i).accelStepCount }

/-- One tick more. -/
theorem TickedFrom.tick {s u t : State} {cnt : Byte} (h : TickedFrom s u) (ht : exec (.tick cnt) u = .next t) :
    TickedFrom s t := by
  obtain ⟨hstate, hchan⟩ := exec_tick_frame ht
  refine ⟨inv_tick h.inv ht, ?_, fun i => ?_⟩
  · rw [hstate, h.state]
  · rw [hchan i, h.chan i]

/-- The states of a run of nominal ticks: what holds at its start and is kept by tick number `n` holds after each. -/
theorem afterTicks_induction {s : State} {P : Nat → State → Prop} (start : P 0 { s with inputs := [] })
    (tick : ∀ n u t, afterTicks s n = .next u → P n u → exec (.tick (BitVec.ofNat 8 n)) u = .next t → P (n + 1) t)
    (n : Nat) (u : State) (h : afterTicks s n = .next u) : P n u := by
  induction n generalizing u with
  | zero =>
    rw [afterTicks_zero, Host.Outcome.next.injEq] at h
    exact h ▸ start
  | succ n ih =>
    rw [afterTicks_succ] at h
    obtain ⟨v, hv, ht⟩ := andThen_next.1 h
    exact tick n v u hv (ih v hv) ht

/-- A run of nominal ticks is a run of ticks. -/
theorem afterTicks_ticked {s : State} (hI : Inv s) {n : Nat} {u : State} (h : afterTicks s n = .next u) :
    TickedFrom s u :=
  afterTicks_induction (P := fun _ u => TickedFrom s u) ⟨inv_withInputs hI [], rfl, fun _ => rfl⟩
    (fun _ _ _ _ ticked ht => ticked.tick ht) n u h

/-- Ticks do not change which channels are processed (R33). -/
theorem TickedFrom.processed_iff {s u : State} (h : TickedFrom s u) (i : ChIdx) : Processed u i ↔ Processed s i := by
  have hge : u.globalEnable = s.globalEnable := by rw [h.state]
  rw [Processed, hge, h.chan i]

/-- A tick keeps the duty and the direction of a steady channel, whether `RAMP` runs on it or not (R143). -/
theorem exec_tick_steady {cnt : Byte} {s t : State} {i : ChIdx} (h : exec (.tick cnt) s = .next t)
    (hsteady : Steady s i) : (t.chan i).duty = (s.chan i).duty ∧ (t.chan i).direction = (s.chan i).direction := by
  obtain ⟨hgo, hduty⟩ := hsteady
  obtain ⟨r, hr, rfl⟩ := exec_tick_next h
  have share := hr i
  rw [afterTick_chan]
  by_cases hp : Processed s i
  · obtain ⟨hge, he⟩ := hp
    rw [hge] at share
    by_cases hlt : (s.chan i).accelStepCount < (s.chan i).accelRate
    · exact ((tickChannel_divider he share).1 hlt).2
    · rw [tickChannel_steady he (BitVec.not_lt.1 hlt) (mt (stopCondition_iff_stopping s i).1 hgo) hduty,
        Option.some_inj] at share
      rw [← share]
      exact ⟨rfl, rfl⟩
  · rw [(tickChannel_unprocessed hp share).1]
    split_ifs <;> exact ⟨rfl, rfl⟩

/-- A channel with the duty and the direction it started with is steady if it was. -/
theorem TickedFrom.steady {s u : State} (h : TickedFrom s u) {i : ChIdx} (hsteady : Steady s i)
    (hduty : (u.chan i).duty = (s.chan i).duty) (hdir : (u.chan i).direction = (s.chan i).direction) : Steady u i := by
  have hgp : u.globalPause = s.globalPause := by rw [h.state]
  have hchan := h.chan i
  rw [hduty, hdir] at hchan
  rw [Steady, Stopping, hgp, hchan]
  exact hsteady

/-- A steady channel keeps its duty and direction under the nominal ticks. -/
theorem afterTicks_steady {s : State} (hI : Inv s) {i : ChIdx} (hsteady : Steady s i) {n : Nat} {u : State}
    (h : afterTicks s n = .next u) :
    (u.chan i).duty = (s.chan i).duty ∧ (u.chan i).direction = (s.chan i).direction := by
  refine afterTicks_induction
    (P := fun _ u => (u.chan i).duty = (s.chan i).duty ∧ (u.chan i).direction = (s.chan i).direction)
    ⟨rfl, rfl⟩ ?_ n u h
  rintro k v t hv ⟨hduty, hdir⟩ ht
  have kept := exec_tick_steady ht ((afterTicks_ticked hI hv).steady hsteady hduty hdir)
  exact ⟨kept.1.trans hduty, kept.2.trans hdir⟩

/-- The nominal ticks complete when no ramp can be refused. -/
theorem afterTicks_completes {s : State} (hI : Inv s) (htx : s.txPending = false) (hnever : ∀ j, NeverRefused s j)
    (n : Nat) : ∃ t, afterTicks s n = .next t := by
  induction n with
  | zero => exact ⟨_, rfl⟩
  | succ n ih =>
    obtain ⟨u, hu⟩ := ih
    have ticked := afterTicks_ticked hI hu
    have hcfg : u.cfg = s.cfg := by rw [ticked.state]
    have ready : TickReady u := ⟨ticked.inv.cfgWf, by rw [ticked.state]; exact htx⟩
    have decodable : TickDecodable u := by
      intro j hdue harm
      rcases hnever j ((ticked.processed_iff j).1 hdue.1) with hsteady | hdec
      · obtain ⟨hduty, hdir⟩ := afterTicks_steady hI hsteady hu
        obtain ⟨hgo, heq⟩ := ticked.steady hsteady hduty hdir
        exact absurd harm (not_or.2 ⟨hgo, not_not.2 heq⟩)
      · rw [hcfg, ticked.chan j]
        exact hdec
    obtain ⟨t, ht⟩ := exec_tick_completes (BitVec.ofNat 8 n) ready decodable
    exact ⟨t, by rw [afterTicks_succ, hu]; exact ht⟩

/-- The counter value of tick number `n` (R181). -/
theorem nominal_toNat (n : Nat) : (BitVec.ofNat 8 n).toNat = n % 256 := BitVec.toNat_ofNat n 8

/-- What a Servo channel of duty `d` shows after `n` nominal ticks from count 0 with the window closed (R110): the
window of the last counter value, the frames begun modulo 20, and the pin high in the windows of every twentieth
frame. -/
def ServoPhase (d n : Nat) (level : Bool) (count : Nat) (pin : Level) : Prop :=
  level = decide ((n + 255) % 256 < d) ∧ count = (n + 255) / 256 % 20 ∧
    (pin = .high ↔ (n + 255) % 256 < d ∧ ((n + 255) / 256 + 19) % 20 = 0)

/-- Tick number `n` takes a Servo channel from one phase to the next (R108, R110): a window opens with each frame's
first tick, because every duty leaves the last tick of a frame off. -/
theorem ServoPhase.next {d n : Nat} {level : Bool} {count : Nat} {pin : Level} (h : ServoPhase d n level count pin)
    (hd : 0 < d) (hd' : d < 256) :
    ServoPhase d (n + 1) (decide (n % 256 < d))
      (if decide (n % 256 < d) && !level then (count + 1) % 20 else count)
      (if decide (n % 256 < d) && !level then (if count = 0 then .high else pin)
        else if !decide (n % 256 < d) && level then .low else pin) := by
  obtain ⟨rfl, rfl, hpin⟩ := h
  refine ⟨decide_eq_decide.2 (by omega), ?_, ?_⟩
  · by_cases hon : n % 256 < d <;> by_cases hwas : (n + 255) % 256 < d <;> simp [hon, hwas] <;> omega
  · by_cases hon : n % 256 < d
    · have hopen : (n + 1 + 255) % 256 < d := by omega
      by_cases hwas : (n + 255) % 256 < d
      · have hsame : (n + 1 + 255) / 256 = (n + 255) / 256 := by omega
        simpa [hon, hwas, hsame, hopen] using hpin
      · have hbegins : ((n + 1 + 255) / 256 + 19) % 20 = (n + 255) / 256 % 20 := by omega
        by_cases hzero : (n + 255) / 256 % 20 = 0
        · simp [hon, hwas, hbegins, hopen, hzero]
        · simpa [hon, hwas, hbegins, hopen, hzero] using hpin
    · have hclosed : ¬ (n + 1 + 255) % 256 < d := by omega
      by_cases hwas : (n + 255) % 256 < d
      · simp [hon, hwas, hclosed]
      · simpa [hon, hwas, hclosed] using hpin

/-- A processed Servo channel that starts from count 0 with the window closed is in its phase after every nominal tick
of a run that keeps its duty (R110). -/
theorem afterTicks_servoPhase {s : State} (hI : Inv s) {i : ChIdx} (hp : Processed s i)
    (hservo : (s.chan i).motorType = .servo) (hcount : (s.chan i).servoRefreshCount = 0)
    (hoff : (s.chan i).outputLevel = false) (hduty : (s.chan i).duty ≠ 0) {n : Nat} (hkeeps : KeepsDuty s i n) (m : Nat)
    (u : State) (hm : m ≤ n + 1) (h : afterTicks s m = .next u) :
    ServoPhase (s.chan i).duty.toNat m (u.chan i).outputLevel (u.chan i).servoRefreshCount.toNat
      (u.pin (s.chan i).dutyPin) := by
  have hd : 0 < (s.chan i).duty.toNat := Nat.pos_of_ne_zero fun e => hduty (BitVec.eq_of_toNat_eq e)
  have hd' : (s.chan i).duty.toNat < 256 := (s.chan i).duty.isLt
  refine afterTicks_induction
    (P := fun m u => m ≤ n + 1 → ServoPhase (s.chan i).duty.toNat m (u.chan i).outputLevel
      (u.chan i).servoRefreshCount.toNat (u.pin (s.chan i).dutyPin)) ?start ?tick m u h hm
  case start =>
    intro _
    have hlow := pin_low_of_off hI hoff
    refine ⟨hoff.trans ?_, (congrArg BitVec.toNat hcount).trans rfl, ?_⟩
    · simp; omega
    · change s.pin (s.chan i).dutyPin = .high ↔ _
      rw [hlow]
      simp
  case tick =>
    intro k v t hv hphase ht hk
    have ticked := afterTicks_ticked hI hv
    have hsame : (v.chan i).duty = (s.chan i).duty := hkeeps k v (by omega) hv
    have hpin : (v.chan i).dutyPin = (s.chan i).dutyPin := by rw [ticked.chan i]
    have hmotor : (v.chan i).motorType = .servo := by rw [ticked.chan i]; exact hservo
    obtain ⟨r, hr, rfl⟩ := exec_tick_next ht
    obtain ⟨hlevel, hcount, -, hlatch⟩ := afterTick_servo ticked.inv hr ((ticked.processed_iff i).2 hp) hmotor
    rw [nominal_toNat, hsame, hpin] at hlatch
    rw [nominal_toNat, hsame] at hlevel hcount
    rw [afterTick_chan, hlevel, hcount, hlatch]
    exact (hphase (by omega)).next hd hd'

end Sys2Proof.Machine

namespace Sys2Proof.Proofs

open Sys2Proof.Machine Sys2Proof.Safety

/-- Settles O59: before tick number `n` the invariant holds and the channel has its duty, so the tick's comparator
decides the pin. -/
theorem dcWaveform : Obligations.DcWaveform := by
  intro s n hI htx
  refine ⟨fun hnever => afterTicks_completes hI htx hnever (n + 1), fun t i h => ⟨fun hsteady => ?_, ?_⟩⟩
  · exact (afterTicks_steady hI hsteady h).1
  · intro hp hdc hkeeps
    rw [afterTicks_succ] at h
    obtain ⟨u, hu, ht⟩ := andThen_next.1 h
    have ticked := afterTicks_ticked hI hu
    have hduty : (u.chan i).duty = (s.chan i).duty := hkeeps n u le_rfl hu
    have hpin : (u.chan i).dutyPin = (s.chan i).dutyPin := by rw [ticked.chan i]
    have hmotor : (u.chan i).motorType = .dc := by rw [ticked.chan i]; exact hdc
    obtain ⟨-, hlevel, -⟩ :=
      dcPinFollowsTheComparator u t _ i ticked.inv ht ((ticked.processed_iff i).2 hp) hmotor
    rw [nominal_toNat, hduty, hpin] at hlevel
    rw [hlevel]
    by_cases hon : n % 256 < (s.chan i).duty.toNat <;> simp [hon]

/-- Settles O60: the phase after `n + 1` ticks. -/
theorem servoWaveform : Obligations.ServoWaveform := by
  intro s n hI htx
  refine ⟨fun hnever => afterTicks_completes hI htx hnever (n + 1), ?_⟩
  intro t i h hp hservo hcount hoff hduty hkeeps
  obtain ⟨-, hphase, hpin⟩ := afterTicks_servoPhase hI hp hservo hcount hoff hduty hkeeps (n + 1) t le_rfl h
  have hframe : (n + 1 + 255) / 256 = n / 256 + 1 := by omega
  have hcounter : (n + 1 + 255) % 256 = n % 256 := by omega
  rw [hframe] at hphase
  rw [hframe, hcounter] at hpin
  refine ⟨hphase, hpin.trans (and_congr_right fun _ => ?_)⟩
  omega

end Sys2Proof.Proofs
